-- ==== Sys2Proof/Word.lean ====
section
/-! DEFINITION. The widths of the spec: frames, register addresses, register values, bytes and request words
(00_scope.md R3, 30_encoding.md R96). -/
namespace Sys2Proof

/-- A 16-bit frame on the wire (R3). -/
abbrev Frame := BitVec 16

/-- A 4-bit Register Address, 0 to 15 (R3). -/
abbrev Addr := BitVec 4

/-- An 11-bit Register Value (R3). -/
abbrev RegValue := BitVec 11

/-- One byte of the transport port (R62). -/
abbrev Byte := BitVec 8

/-- The 32-bit request word of the command port (R96). -/
abbrev ReqWord := BitVec 32

/-- The two bytes of one exchange, in the order in which they cross the port (R62, R95). -/
structure BytePair where
  first  : Byte
  second : Byte
deriving DecidableEq, Repr, Inhabited

end Sys2Proof
end

