-- ==== Sys2Proof/Syntax.lean ====
section
/-! DEFINITION. The names of the spec: the four device registers and their fields, the decoded records, and one
constructor of `Instr` per row of spec/opcode_table.json. -/
namespace Sys2Proof

/-- The defined device registers (R70, R170). -/
inductive Reg where
  | sr1 | sr2 | cr1 | cr2
deriving DecidableEq, Repr, Inhabited

/-- The named fields of the register catalogue (R171). -/
inductive FieldName where
  -- Status Register 1
  | fault | gvddUv | pvddUv | otsd | otw
  | fethaOc | fetlaOc | fethbOc | fetlbOc | fethcOc | fetlcOc
  -- Status Register 2
  | gvddOv | deviceId
  -- Control Register 1
  | ocAdjSet | ocpMode | pwmMode | gateReset | gateCurrent
  -- Control Register 2
  | ocToff | dcCalCh2 | dcCalCh1 | gain | octwMode
deriving DecidableEq, Repr, Inhabited

/-- The record DECODE_SR1 gives (R174). `rsvd` keeps, at their own places, the bits that no field of the layout
covers (none at the default layout). -/
structure Sr1 where
  fault   : Bool
  gvddUv  : Bool
  pvddUv  : Bool
  otsd    : Bool
  otw     : Bool
  fethaOc : Bool
  fetlaOc : Bool
  fethbOc : Bool
  fetlbOc : Bool
  fethcOc : Bool
  fetlcOc : Bool
  rsvd    : RegValue
deriving DecidableEq, Repr, Inhabited

/-- The record DECODE_SR2 gives (R175); `rsvd` keeps the reserved bits at their own places. -/
structure Sr2 where
  gvddOv   : Bool
  deviceId : RegValue
  rsvd     : RegValue
deriving DecidableEq, Repr, Inhabited

/-- The record DECODE_CR1 gives (R176); `rsvd` keeps the bits no field covers (none at the default layout). -/
structure Cr1 where
  ocAdjSet    : RegValue
  ocpMode     : RegValue
  pwmMode     : RegValue
  gateReset   : RegValue
  gateCurrent : RegValue
  rsvd        : RegValue
deriving DecidableEq, Repr, Inhabited

/-- The record DECODE_CR2 gives (R177); `rsvd` keeps the reserved bits at their own places. -/
structure Cr2 where
  ocToff   : RegValue
  dcCalCh2 : RegValue
  dcCalCh1 : RegValue
  gain     : RegValue
  octwMode : RegValue
  rsvd     : RegValue
deriving DecidableEq, Repr, Inhabited

/-- A decoded record of one of the four registers: the operand of ENCODE_R (R178). Its 11-bit members admit records that
no decoder gives (log 16, log 27). -/
inductive RegRecord where
  | sr1 (r : Sr1)
  | sr2 (r : Sr2)
  | cr1 (r : Cr1)
  | cr2 (r : Cr2)
deriving DecidableEq, Repr, Inhabited

/-- The FaultStatus aggregate: twelve flags and the device identity (R179). -/
structure FaultStatus where
  fault    : Bool
  gvddUv   : Bool
  pvddUv   : Bool
  otsd     : Bool
  otw      : Bool
  fethaOc  : Bool
  fetlaOc  : Bool
  fethbOc  : Bool
  fetlbOc  : Bool
  fethcOc  : Bool
  fetlcOc  : Bool
  gvddOv   : Bool
  deviceId : RegValue
deriving DecidableEq, Repr, Inhabited

/-- One constructor per row of spec/opcode_table.json.

A request carries every field of its word (R96), so that a word with a stray field is an instruction as well: its
meaning is the refusal of R98 and R244. The rows of formats `comb` and `seq`, and the frame rows, are the sub-blocks
used alone (R26 (d)). -/
inductive Instr where
  -- requests of the command port: the raw operations (R149, R150, R184)
  | rawRead (addr : Addr) (a b : RegValue)
  | rawWrite (addr : Addr) (a b : RegValue)
  | rawModify (addr : Addr) (a b : RegValue)
  -- the fault queries (R201 to R203)
  | hasFault (addr : Addr) (a b : RegValue)
  | getDeviceId (addr : Addr) (a b : RegValue)
  | getFaultStatus (addr : Addr) (a b : RegValue)
  -- the setters (R204 to R213)
  | setOcAdj (addr : Addr) (a b : RegValue)
  | setOcpMode (addr : Addr) (a b : RegValue)
  | setPwmMode (addr : Addr) (a b : RegValue)
  | setGateReset (addr : Addr) (a b : RegValue)
  | setGateCurrent (addr : Addr) (a b : RegValue)
  | setGain (addr : Addr) (a b : RegValue)
  | setOctwMode (addr : Addr) (a b : RegValue)
  | setDcCalCh1 (addr : Addr) (a b : RegValue)
  | setDcCalCh2 (addr : Addr) (a b : RegValue)
  | setOcToff (addr : Addr) (a b : RegValue)
  -- the refused words (R100): OP = 1 ++ opLow, and RSV = 1 with any other 31 bits
  | unassigned (opLow : BitVec 4) (addr : Addr) (a b : RegValue)
  | rsvSet (rest : BitVec 31)
  -- the frame rows: the checked encoders on natural numbers, and the response decoder (R120 to R123)
  | writeFrame (address value : Nat)
  | readFrame (address : Nat)
  | responseFrame (frame : Frame)
  -- the other pure functions of the Frame Codec (R124 to R126)
  | decodeCommand (frame : Frame)
  | toBytes (frame : Frame)
  | fromBytes (b0 b1 : Byte)
  -- the pure functions of the Register Map (R172 to R179)
  | extract (v : RegValue) (f : FieldName)
  | insert (v : RegValue) (f : FieldName) (code : RegValue)
  | decodeSr1 (v : RegValue)
  | decodeSr2 (v : RegValue)
  | decodeCr1 (v : RegValue)
  | decodeCr2 (v : RegValue)
  | encodeR (r : RegRecord)
  | faultStatus (v1 v2 : RegValue)
  -- the engine sequences (R141, R143, R181)
  | writeRegister (a : Addr) (v : RegValue)
  | readRegister (a : Addr)
  | modifyRegister (a : Addr) (mask bits : RegValue)
deriving DecidableEq, Repr

end Sys2Proof
end

