-- ==== Sys2Proof/Config.lean ====
section
/-! DEFINITION. What is fixed for a machine (the parameters of 00_scope.md R4), what an exchange can bring (the draws
of the environment), and the free values, which are constants without a body. -/
namespace Sys2Proof

/-- A field's place in its register: the lowest bit and the width (R170). -/
structure Slot where
  lsb   : Nat
  width : Nat
deriving DecidableEq, Repr, Inhabited

/-- FIELD_LAYOUT: one slot per named field (R170, R171). -/
structure FieldLayout where
  fault       : Slot
  gvddUv      : Slot
  pvddUv      : Slot
  otsd        : Slot
  otw         : Slot
  fethaOc     : Slot
  fetlaOc     : Slot
  fethbOc     : Slot
  fetlbOc     : Slot
  fethcOc     : Slot
  fetlcOc     : Slot
  gvddOv      : Slot
  deviceId    : Slot
  ocAdjSet    : Slot
  ocpMode     : Slot
  pwmMode     : Slot
  gateReset   : Slot
  gateCurrent : Slot
  ocToff      : Slot
  dcCalCh2    : Slot
  dcCalCh1    : Slot
  gain        : Slot
  octwMode    : Slot
deriving DecidableEq, Repr, Inhabited

/-- REG_ADDR: the address of each defined register (R70). -/
structure RegAddrs where
  sr1 : Addr
  sr2 : Addr
  cr1 : Addr
  cr2 : Addr
deriving DecidableEq, Repr, Inhabited

/-- The parameters of the block that are data (R4, R34). The parameter TransportCause is a type, below. -/
structure Config where
  /-- WRITE_FE_CHECK (R142). -/
  writeFeCheck  : Bool
  /-- REG_ADDR (R70). -/
  regAddr       : RegAddrs
  /-- FIELD_LAYOUT (R170). -/
  layout        : FieldLayout
  /-- RESERVED_CODES, as pairs of a field and a code (R200). -/
  reservedCodes : List (FieldName × RegValue)
deriving DecidableEq, Repr, Inhabited

/-- Which numbers are causes of the adapter: the parameter TransportCause (R4, U22), a constant without a body, so that
every statement holds for every set of causes (log 5). -/
opaque Config.isCause : Nat → Bool

/-- TransportCause: the adapter-specific cause of a transport error, "an opaque type", which the block only carries
(R4, R140, U22). DESIGN CHOICE (safe): one cause that every adapter has, and those that the parameter `Config.isCause`
admits: any set of causes that is not empty and can be numbered (log 5). -/
inductive TransportCause where
  | base
  | other (tag : Nat) (admitted : Config.isCause tag = true)
deriving DecidableEq, Repr, Inhabited

/-- The device behind the transport: its register file (R29, R80), the frame its one-frame pipeline will send next
(R30, R80), and W_REPLY, what it answers after a write (R83). DESIGN CHOICE (safe): `pending` and `wReply` may hold any 16
bits, bit 15 set included, although R84's reference device never reports a frame error (log 26). -/
structure Device where
  regs    : Vector RegValue 16
  pending : Frame
  wReply  : Frame
deriving DecidableEq, Repr, Inhabited

/-- What the transport port gives back for one exchange (R140). -/
inductive Answer where
  /-- The exchange ended and these two bytes were received. -/
  | reply (rx : BytePair)
  /-- The exchange failed, or was cancelled, with this cause (R241, R276). -/
  | fail (c : TransportCause)
  /-- The exchange has not ended yet: the block waits (R140, R250). -/
  | stall
deriving DecidableEq, Repr, Inhabited

/-- One draw of the environment (R140, R251): what happens at the next exchange. -/
inductive Draw where
  /-- Any device and any transport: the answer, and the state the device is left in (`none`: as it was) (R31, R69,
  R77, U1, U2, U5, U6, U17). -/
  | any (ans : Answer) (after : Option Device)
  /-- The reference device answers (R81). -/
  | reference
  /-- The reference device answers, and bit 15 of its reply is set on the way (95_test_vectors.md P5). -/
  | flagged
deriving DecidableEq, Repr, Inhabited

/-- The n-th free draw of the environment: a constant without a body, so that nothing can be proved of it. The reply to
an exchange "is a draw of the environment" (R140; log 2). -/
opaque Config.freeDraw : Nat → Draw

/-- The n-th unspecified `res.cause`: a constant without a body (R243: "otherwise `res.cause` is unspecified"; log 6). -/
opaque Config.freeCause : Nat → TransportCause

end Sys2Proof
end

