-- ==== Sys2Proof/Machine/Codec.lean ====
section
/-! DEFINITION. The Frame Codec (40_codec.md): pure functions over frames and bytes. The packing functions take operands
of the wire's own widths; `encodeWrite` and `encodeRead` are the checked encoders of R120 to R122 over natural numbers. The laws of R128 are laws of
these definitions (`encodeWrite`, `encodeRead`, `decodeResponse`, `decodeCommand`, `toBytes`, `fromBytes`), stated in
Obligations.CodecLaws. -/
namespace Sys2Proof.Machine

/-- The write Command Frame `0 ++ addr ++ value` (R91). -/
def packWrite (a : Addr) (v : RegValue) : Frame := 0#1 ++ a ++ v

/-- The read Command Frame `1 ++ addr ++ 0` (R92). -/
def packRead (a : Addr) : Frame := 1#1 ++ a ++ 0#11

/-- ENCODE_WRITE (R120), checked as R121 says: `none` is `reject`. -/
def encodeWrite (address value : Nat) : Option Frame :=
  if address > 15 ∨ value > 0x7FF then none
  else some (packWrite (BitVec.ofNat 4 address) (BitVec.ofNat 11 value))

/-- ENCODE_READ (R122), checked as R121 says: `none` is `reject`. -/
def encodeRead (address : Nat) : Option Frame :=
  if address > 15 then none else some (packRead (BitVec.ofNat 4 address))

/-- The frame-error flag of a Response Frame: its bit 15 (R27, R93). -/
def frameError (f : Frame) : Bool := f.getLsbD 15

/-- The data of a Response Frame: its bits 10:0 (R93). -/
def frameData (f : Frame) : RegValue := f.extractLsb' 0 11

/-- DECODE_RESPONSE (R123); bits 14:11 are not read (R94). -/
def decodeResponse (f : Frame) : Bool × RegValue := (frameError f, frameData f)

/-- DECODE_COMMAND (R124): whether the frame is a read, its address, its payload. -/
def decodeCommand (f : Frame) : Bool × Addr × RegValue :=
  (f.getLsbD 15, f.extractLsb' 11 4, f.extractLsb' 0 11)

/-- TO_BYTES (R125): the most significant byte first. -/
def toBytes (f : Frame) : BytePair := ⟨f.extractLsb' 8 8, f.extractLsb' 0 8⟩

/-- FROM_BYTES (R126): the first byte received is bits 15:8. -/
def fromBytes (p : BytePair) : Frame := p.first ++ p.second

end Sys2Proof.Machine
end

