-- ==== Sys2Proof/Machine/Layout.lean ====
section
/-! DEFINITION. Looking up the register catalogue (42_register_map.md R170, R171): the register of a field, its slot
in a layout, its mask; the defaults of the parameters; and when a configuration is one the rules speak of. -/
namespace Sys2Proof

/-- The register a field lies in: the first column of R171. -/
def FieldName.reg : FieldName → Reg
  | .fault | .gvddUv | .pvddUv | .otsd | .otw => .sr1
  | .fethaOc | .fetlaOc | .fethbOc | .fetlbOc | .fethcOc | .fetlcOc => .sr1
  | .gvddOv | .deviceId => .sr2
  | .ocAdjSet | .ocpMode | .pwmMode | .gateReset | .gateCurrent => .cr1
  | .ocToff | .dcCalCh2 | .dcCalCh1 | .gain | .octwMode => .cr2

/-- The slot a layout gives a field (R170). -/
def FieldLayout.slot (l : FieldLayout) : FieldName → Slot
  | .fault => l.fault
  | .gvddUv => l.gvddUv
  | .pvddUv => l.pvddUv
  | .otsd => l.otsd
  | .otw => l.otw
  | .fethaOc => l.fethaOc
  | .fetlaOc => l.fetlaOc
  | .fethbOc => l.fethbOc
  | .fetlbOc => l.fetlbOc
  | .fethcOc => l.fethcOc
  | .fetlcOc => l.fetlcOc
  | .gvddOv => l.gvddOv
  | .deviceId => l.deviceId
  | .ocAdjSet => l.ocAdjSet
  | .ocpMode => l.ocpMode
  | .pwmMode => l.pwmMode
  | .gateReset => l.gateReset
  | .gateCurrent => l.gateCurrent
  | .ocToff => l.ocToff
  | .dcCalCh2 => l.dcCalCh2
  | .dcCalCh1 => l.dcCalCh1
  | .gain => l.gain
  | .octwMode => l.octwMode

/-- `width` ones at the bottom of a register value: `(1 << w) - 1` (R173). -/
def Slot.ones (p : Slot) : RegValue := (1#11 <<< p.width) - 1#11

/-- A field's mask in its register: the mask column of R171, `((1 << w) - 1) << lsb` (R173). -/
def Slot.mask (p : Slot) : RegValue := p.ones <<< p.lsb

/-- The address REG_ADDR gives a register (R70). -/
def RegAddrs.of (t : RegAddrs) : Reg → Addr
  | .sr1 => t.sr1
  | .sr2 => t.sr2
  | .cr1 => t.cr1
  | .cr2 => t.cr2

/-- All named fields, in the order of R171. -/
def FieldName.all : List FieldName :=
  [.fault, .gvddUv, .pvddUv, .otsd, .otw, .fethaOc, .fetlaOc, .fethbOc, .fetlbOc, .fethcOc, .fetlcOc,
   .gvddOv, .deviceId,
   .ocAdjSet, .ocpMode, .pwmMode, .gateReset, .gateCurrent,
   .ocToff, .dcCalCh2, .dcCalCh1, .gain, .octwMode]

/-- The thirteen fields that are flags, so one bit wide in every layout (R174, R175). -/
def FieldName.isFlag : FieldName → Bool
  | .deviceId => false
  | f => match f.reg with
    | .sr1 | .sr2 => true
    | .cr1 | .cr2 => false

/-- The default FIELD_LAYOUT: the table of R171. -/
def FieldLayout.default : FieldLayout where
  fault       := ⟨10, 1⟩
  gvddUv      := ⟨9, 1⟩
  pvddUv      := ⟨8, 1⟩
  otsd        := ⟨7, 1⟩
  otw         := ⟨6, 1⟩
  fethaOc     := ⟨5, 1⟩
  fetlaOc     := ⟨4, 1⟩
  fethbOc     := ⟨3, 1⟩
  fetlbOc     := ⟨2, 1⟩
  fethcOc     := ⟨1, 1⟩
  fetlcOc     := ⟨0, 1⟩
  gvddOv      := ⟨7, 1⟩
  deviceId    := ⟨0, 4⟩
  ocAdjSet    := ⟨6, 5⟩
  ocpMode     := ⟨4, 2⟩
  pwmMode     := ⟨3, 1⟩
  gateReset   := ⟨2, 1⟩
  gateCurrent := ⟨0, 2⟩
  ocToff      := ⟨6, 1⟩
  dcCalCh2    := ⟨5, 1⟩
  dcCalCh1    := ⟨4, 1⟩
  gain        := ⟨2, 2⟩
  octwMode    := ⟨0, 2⟩

/-- The default REG_ADDR (R70). -/
def RegAddrs.default : RegAddrs where
  sr1 := 0
  sr2 := 1
  cr1 := 2
  cr2 := 3

/-- The default parameters of 00_scope.md §4 (R4). -/
def Config.default : Config where
  writeFeCheck  := false
  regAddr       := RegAddrs.default
  layout        := FieldLayout.default
  reservedCodes := [(.gateCurrent, 3), (.octwMode, 3)]

/-- RESERVED_CODES(F) holds the code (R200). -/
def Config.isReserved (c : Config) (f : FieldName) (code : RegValue) : Bool :=
  c.reservedCodes.contains (f, code)

/-- The layouts the rules speak of (R170): each field lies inside bits 10:0, and no two fields of one register overlap.
DEDUCED (safe): a flag is one bit wide, since its member is read as a Boolean (R174; log 16). -/
def FieldLayout.wf (l : FieldLayout) : Bool :=
  FieldName.all.all fun f =>
    decide (0 < (l.slot f).width) && decide ((l.slot f).lsb + (l.slot f).width ≤ 11) &&
    (!f.isFlag || (l.slot f).width == 1) &&
    FieldName.all.all fun g =>
      f == g || f.reg != g.reg || (l.slot f).mask &&& (l.slot g).mask == 0#11

/-- A configuration whose layout is one the rules speak of (R170). -/
def Config.wf (c : Config) : Bool := c.layout.wf

end Sys2Proof
end

