-- ==== Sys2Proof/WellFormed.lean ====
section
/-! DEFINITION. When an instruction's operands are ones its rule admits: the operand table of 30_encoding.md R98 for the
requests, the ranges of 40_codec.md R120 to R122 for the checked encoders, the operand conditions of R173 and R181.
An ill-formed request is no error of the model: it is a request that is refused (R100, R244). -/
namespace Sys2Proof

/-- A field code that fits its field and is not reserved: R98's checks on B for a setter. -/
def FieldName.admits (f : FieldName) (c : Config) (code : RegValue) : Bool :=
  decide (code.toNat < 2 ^ (c.layout.slot f).width) && !c.isReserved f code

/-- R98 for a query: no operand field is used. -/
def noOperands (addr : Addr) (a b : RegValue) : Bool := addr == 0#4 && a == 0#11 && b == 0#11

/-- R98 for a setter of field f: only B is used, for a code of the field. -/
def setterOperands (c : Config) (f : FieldName) (addr : Addr) (a b : RegValue) : Bool :=
  addr == 0#4 && a == 0#11 && f.admits c b

/-- The operands are ones the instruction's rule admits under configuration c. -/
def Instr.wellFormed (c : Config) : Instr → Bool
  | .rawRead _ a b => a == 0#11 && b == 0#11
  | .rawWrite _ a _ => a == 0#11
  | .rawModify _ a b => b &&& ~~~a == 0#11
  | .hasFault addr a b => noOperands addr a b
  | .getDeviceId addr a b => noOperands addr a b
  | .getFaultStatus addr a b => noOperands addr a b
  | .setOcAdj addr a b => setterOperands c .ocAdjSet addr a b
  | .setOcpMode addr a b => setterOperands c .ocpMode addr a b
  | .setPwmMode addr a b => setterOperands c .pwmMode addr a b
  | .setGateReset addr a b => setterOperands c .gateReset addr a b
  | .setGateCurrent addr a b => setterOperands c .gateCurrent addr a b
  | .setGain addr a b => setterOperands c .gain addr a b
  | .setOctwMode addr a b => setterOperands c .octwMode addr a b
  | .setDcCalCh1 addr a b => setterOperands c .dcCalCh1 addr a b
  | .setDcCalCh2 addr a b => setterOperands c .dcCalCh2 addr a b
  | .setOcToff addr a b => setterOperands c .ocToff addr a b
  | .unassigned _ _ _ _ => true
  | .rsvSet _ => true
  | .writeFrame address value => decide (address ≤ 15) && decide (value ≤ 0x7FF)
  | .readFrame address => decide (address ≤ 15)
  | .responseFrame _ => true
  | .decodeCommand _ => true
  | .toBytes _ => true
  | .fromBytes _ _ => true
  | .extract _ _ => true
  | .insert _ f code => decide (code.toNat < 2 ^ (c.layout.slot f).width)
  | .decodeSr1 _ => true
  | .decodeSr2 _ => true
  | .decodeCr1 _ => true
  | .decodeCr2 _ => true
  | .encodeR _ => true
  | .faultStatus _ _ => true
  | .writeRegister _ _ => true
  | .readRegister _ => true
  | .modifyRegister _ mask bits => bits &&& ~~~mask == 0#11

end Sys2Proof
end

