-- ==== Sys2Proof/Decode.lean ====
section
/-! DEFINITION. From words to instructions and back (30_encoding.md R90 to R100), the assembler's symbolic lines
(R104), and the words of the opcode table. The block has two encoded interfaces, so an encoded word says which one it
crosses; the functions of formats `comb` and `seq` have no words. -/
namespace Sys2Proof

/-- A word of one of the encoded interfaces. -/
inductive Encoded where
  /-- A request word on the command port (R96). -/
  | request (w : ReqWord)
  /-- A Command Frame, as the block sends it (R90). -/
  | command (f : Frame)
  /-- A Response Frame, as the block receives it (R93). -/
  | response (f : Frame)
deriving DecidableEq, Repr

/-- Why a word is no instruction. -/
inductive DecodeError where
  /-- A Command Frame with bit 15 set and a payload that is not zero: "The block never sends a read frame with a
  non-zero payload" (R92), so it is outside the forms of R91 and R92 (R103 (d)). -/
  | readFrameWithPayload (f : Frame)
deriving DecidableEq, Repr

/-- OP, ADDR, A and B of a request word (R96). -/
def reqOp (w : ReqWord) : BitVec 5 := w.extractLsb' 26 5
def reqAddr (w : ReqWord) : Addr := w.extractLsb' 22 4
def reqA (w : ReqWord) : RegValue := w.extractLsb' 11 11
def reqB (w : ReqWord) : RegValue := w.extractLsb' 0 11

/-- A request word: RSV = 0, then OP, ADDR, A, B (R96). -/
def packRequest (op : BitVec 5) (addr : Addr) (a b : RegValue) : ReqWord := 0#1 ++ op ++ addr ++ a ++ b

/-- The operation a request word selects (R97, R100). Every word selects one. -/
def decodeRequest (w : ReqWord) : Instr :=
  if w.getLsbD 31 then .rsvSet (w.extractLsb' 0 31)
  else match (reqOp w).toNat with
    | 0x00 => .rawRead (reqAddr w) (reqA w) (reqB w)
    | 0x01 => .rawWrite (reqAddr w) (reqA w) (reqB w)
    | 0x02 => .rawModify (reqAddr w) (reqA w) (reqB w)
    | 0x03 => .hasFault (reqAddr w) (reqA w) (reqB w)
    | 0x04 => .getDeviceId (reqAddr w) (reqA w) (reqB w)
    | 0x05 => .getFaultStatus (reqAddr w) (reqA w) (reqB w)
    | 0x06 => .setOcAdj (reqAddr w) (reqA w) (reqB w)
    | 0x07 => .setOcpMode (reqAddr w) (reqA w) (reqB w)
    | 0x08 => .setPwmMode (reqAddr w) (reqA w) (reqB w)
    | 0x09 => .setGateReset (reqAddr w) (reqA w) (reqB w)
    | 0x0A => .setGateCurrent (reqAddr w) (reqA w) (reqB w)
    | 0x0B => .setGain (reqAddr w) (reqA w) (reqB w)
    | 0x0C => .setOctwMode (reqAddr w) (reqA w) (reqB w)
    | 0x0D => .setDcCalCh1 (reqAddr w) (reqA w) (reqB w)
    | 0x0E => .setDcCalCh2 (reqAddr w) (reqA w) (reqB w)
    | 0x0F => .setOcToff (reqAddr w) (reqA w) (reqB w)
    | _ => .unassigned ((reqOp w).extractLsb' 0 4) (reqAddr w) (reqA w) (reqB w)

/-- A Command Frame as one of the block's own two forms (R91, R92). -/
def decodeCommandFrame (f : Frame) : Except DecodeError Instr :=
  match Machine.decodeCommand f with
  | (false, a, d) => .ok (.writeFrame a.toNat d.toNat)
  | (true, a, d) => if d = 0#11 then .ok (.readFrame a.toNat) else .error (.readFrameWithPayload f)

/-- Decoding, total on every word of every interface. -/
def decode : Encoded → Except DecodeError Instr
  | .request w => .ok (decodeRequest w)
  | .command f => decodeCommandFrame f
  | .response f => .ok (.responseFrame f)

/-- The word of an instruction, or `none` where it has none: the pure functions and the engine sequences have no word
(30_encoding.md §2), and the checked encoders reject operands out of range (R121). -/
def encode : Instr → Option Encoded
  | .rawRead addr a b => some (.request (packRequest 0x00#5 addr a b))
  | .rawWrite addr a b => some (.request (packRequest 0x01#5 addr a b))
  | .rawModify addr a b => some (.request (packRequest 0x02#5 addr a b))
  | .hasFault addr a b => some (.request (packRequest 0x03#5 addr a b))
  | .getDeviceId addr a b => some (.request (packRequest 0x04#5 addr a b))
  | .getFaultStatus addr a b => some (.request (packRequest 0x05#5 addr a b))
  | .setOcAdj addr a b => some (.request (packRequest 0x06#5 addr a b))
  | .setOcpMode addr a b => some (.request (packRequest 0x07#5 addr a b))
  | .setPwmMode addr a b => some (.request (packRequest 0x08#5 addr a b))
  | .setGateReset addr a b => some (.request (packRequest 0x09#5 addr a b))
  | .setGateCurrent addr a b => some (.request (packRequest 0x0A#5 addr a b))
  | .setGain addr a b => some (.request (packRequest 0x0B#5 addr a b))
  | .setOctwMode addr a b => some (.request (packRequest 0x0C#5 addr a b))
  | .setDcCalCh1 addr a b => some (.request (packRequest 0x0D#5 addr a b))
  | .setDcCalCh2 addr a b => some (.request (packRequest 0x0E#5 addr a b))
  | .setOcToff addr a b => some (.request (packRequest 0x0F#5 addr a b))
  | .unassigned opLow addr a b => some (.request (packRequest (1#1 ++ opLow) addr a b))
  | .rsvSet rest => some (.request (1#1 ++ rest))
  | .writeFrame address value => (Machine.encodeWrite address value).map .command
  | .readFrame address => (Machine.encodeRead address).map .command
  | .responseFrame frame => some (.response frame)
  | .decodeCommand _ => none
  | .toBytes _ => none
  | .fromBytes _ _ => none
  | .extract _ _ => none
  | .insert _ _ _ => none
  | .decodeSr1 _ => none
  | .decodeSr2 _ => none
  | .decodeCr1 _ => none
  | .decodeCr2 _ => none
  | .encodeR _ => none
  | .faultStatus _ _ => none
  | .writeRegister _ _ => none
  | .readRegister _ => none
  | .modifyRegister _ _ _ => none

/-- The word a table row's bits stand for. 32 bits are a request word. Sixteen bits are a Command Frame where they have
one of the block's two forms, and a Response Frame else: the table's RESPONSE_FRAME has no fixed bit, so every word of
WRITE_FRAME and READ_FRAME is a word of RESPONSE_FRAME too (log 14). -/
def tableWord (nbits w : Nat) : Option Encoded :=
  if nbits = 32 then some (.request (BitVec.ofNat 32 w))
  else if nbits = 16 then
    match decodeCommandFrame (BitVec.ofNat 16 w) with
    | .ok _ => some (.command (BitVec.ofNat 16 w))
    | .error _ => some (.response (BitVec.ofNat 16 w))
  else none

/-- The instruction the decoder reads from a table row's bits. -/
def decodeTableWord (nbits w : Nat) : Option Instr :=
  match tableWord nbits w with
  | none => none
  | some e => match decode e with
    | .ok i => some i
    | .error _ => none

/-- The mnemonics of the request operations, for the assembler's lines (R97, R104). -/
inductive Mnemonic where
  | rawRead | rawWrite | rawModify | hasFault | getDeviceId | getFaultStatus
  | setOcAdj | setOcpMode | setPwmMode | setGateReset | setGateCurrent
  | setGain | setOctwMode | setDcCalCh1 | setDcCalCh2 | setOcToff
deriving DecidableEq, Repr

/-- An operand of an assembler line: a number, or one of the symbols SR1, SR2, CR1, CR2 (R104). -/
inductive AsmOperand where
  | num (n : Nat)
  | reg (r : Reg)
deriving DecidableEq, Repr

/-- The number an operand stands for: a symbol is its register's address (R104). -/
def AsmOperand.value (c : Config) : AsmOperand → Nat
  | .num n => n
  | .reg r => (c.regAddr.of r).toNat

/-- A number as a field of w bits, where it fits. -/
def asmField (w : Nat) (n : Nat) : Option (BitVec w) :=
  if n < 2 ^ w then some (BitVec.ofNat w n) else none

/-- The request an assembler line stands for: the operand order is ADDR, A, B, "only the operands the operation uses are
written", and "An omitted field is 0" (R104). -/
def assemble (c : Config) (m : Mnemonic) (operands : List AsmOperand) : Option Instr :=
  let code (mk : Addr → RegValue → RegValue → Instr) : Option Instr :=
    match operands.map (·.value c) with
    | [] => some (mk 0 0 0)
    | [b] => (asmField 11 b).map (mk 0 0)
    | _ => none
  let query (i : Instr) : Option Instr := if operands.isEmpty then some i else none
  match m with
  | .rawRead => match operands.map (·.value c) with
    | [] => some (.rawRead 0 0 0)
    | [addr] => (asmField 4 addr).map fun x => .rawRead x 0 0
    | _ => none
  | .rawWrite => match operands.map (·.value c) with
    | [] => some (.rawWrite 0 0 0)
    | [addr] => (asmField 4 addr).map fun x => .rawWrite x 0 0
    | [addr, b] => (asmField 4 addr).bind fun x => (asmField 11 b).map fun y => .rawWrite x 0 y
    | _ => none
  | .rawModify => match operands.map (·.value c) with
    | [] => some (.rawModify 0 0 0)
    | [addr] => (asmField 4 addr).map fun x => .rawModify x 0 0
    | [addr, a] => (asmField 4 addr).bind fun x => (asmField 11 a).map fun y => .rawModify x y 0
    | [addr, a, b] =>
      (asmField 4 addr).bind fun x => (asmField 11 a).bind fun y => (asmField 11 b).map fun z => .rawModify x y z
    | _ => none
  | .hasFault => query (.hasFault 0 0 0)
  | .getDeviceId => query (.getDeviceId 0 0 0)
  | .getFaultStatus => query (.getFaultStatus 0 0 0)
  | .setOcAdj => code .setOcAdj
  | .setOcpMode => code .setOcpMode
  | .setPwmMode => code .setPwmMode
  | .setGateReset => code .setGateReset
  | .setGateCurrent => code .setGateCurrent
  | .setGain => code .setGain
  | .setOctwMode => code .setOctwMode
  | .setDcCalCh1 => code .setDcCalCh1
  | .setDcCalCh2 => code .setDcCalCh2
  | .setOcToff => code .setOcToff

end Sys2Proof
end

