-- ==== Sys2Proof/Machine/State.lean ====
section
/-! DEFINITION. The state of the machine as plain data (10_state.md), its stops, and the state after reset (70_reset_and_hazards.md). -/
namespace Sys2Proof.Machine

/-- The operations the sequencer can be busy with: the sixteen of R97, and the three engine sequences when they are used
alone (R141, R143, R181; log 12). -/
inductive Operation where
  | rawRead | rawWrite | rawModify | hasFault | getDeviceId | getFaultStatus
  | setOcAdj | setOcpMode | setPwmMode | setGateReset | setGateCurrent
  | setGain | setOctwMode | setDcCalCh1 | setDcCalCh2 | setOcToff
  | writeRegister | readRegister | modifyRegister
deriving DecidableEq, Repr

/-- The sequencer state: IDLE, or BUSY(op, k) with k exchanges completed (R22). -/
inductive Seq where
  | idle
  | busy (op : Operation) (k : Nat)
deriving DecidableEq, Repr

/-- The request latch (R23). -/
structure Request where
  op   : BitVec 5
  addr : Addr
  a    : RegValue
  b    : RegValue
deriving DecidableEq, Repr

/-- The four status values (R28, R102); their codes are `Status.code`. -/
inductive Status where
  | ok | transport | frameError | notSupported
deriving DecidableEq, Repr

/-- The result register (R25). -/
structure Result where
  valid  : Bool
  status : Status
  data   : BitVec 16
  cause  : TransportCause
deriving DecidableEq, Repr

/-- Who answers an exchange when no scripted draw is left: an arbitrary device, by free draws, or the reference device
(R80, R84). -/
inductive EnvKind where
  | free
  | reference
deriving DecidableEq, Repr

/-- The environment agent: the Transport Adapter and the device (R251). -/
structure Env where
  kind   : EnvKind
  /-- The draws already fixed, first one next: a scripted transport (R84). -/
  script : List Draw
  /-- How many free draws were taken. -/
  drawn  : Nat
  /-- The device's register file and pipeline latch (R29, R30, R80). -/
  dev    : Device
deriving DecidableEq, Repr

/-- One exchange that ended: what was sent, and the frame received or the cause of the failure (R246). -/
inductive TraceEntry where
  | completed (tx rx : Frame)
  | failed (tx : Frame) (c : TransportCause)
deriving DecidableEq, Repr

/-- What the host places for the machine to take. -/
inductive Input where
  /-- A word of an encoded interface: a request word (R96), or a frame at the codec used alone (R26 (d)). -/
  | word (e : Encoded)
  /-- An instruction presented as such: "A model may use an inductive type with one constructor per operation in place
  of the request word" (30_encoding.md). The pure functions and the engine sequences, which have no word, arrive so. -/
  | use (i : Instr)
  /-- A reset of the block (R270, R271). -/
  | reset
deriving DecidableEq, Repr

/-- The output of a pure function used alone (R127): what its pseudocode returns. -/
inductive Output where
  /-- No output: none was used yet, or the last one rejected its operands and "produces no frame" (R121). -/
  | none
  | frame (f : Frame)
  | response (fe : Bool) (data : RegValue)
  | command (rw : Bool) (addr : Addr) (payload : RegValue)
  | bytes (p : BytePair)
  | fieldValue (v : RegValue)
  | regValue (v : RegValue)
  | record (r : RegRecord)
  /-- The FaultStatus aggregate and its packed form (R179). -/
  | faultStatus (fs : FaultStatus) (packed : BitVec 16)
deriving DecidableEq, Repr

/-- Everything the spec gives the machine, and the model's own fields `inputs`, `out`, `freeCount` (INVENTORY.md). -/
structure State where
  /-- The parameters, constant for the block's lifetime (R4, R34). -/
  cfg       : Config
  /-- The sequencer (R22). -/
  seq       : Seq
  /-- The request latch (R23). -/
  req       : Request
  /-- The working register `img` (R24). -/
  img       : RegValue
  /-- The working register `s1` (R24). -/
  s1        : RegValue
  /-- The result register (R25). -/
  res       : Result
  /-- `owns_bus`, a constant true (R21). -/
  ownsBus   : Bool
  /-- The environment on the transport port (R251). -/
  env       : Env
  /-- The exchanges that ended, oldest first (R246). -/
  trace     : List TraceEntry
  /-- What the host has placed, next one first (R72). -/
  inputs    : List Input
  /-- The output of the pure function used alone last (R127). -/
  out       : Output
  /-- How many free causes were taken (log 6). -/
  freeCount : Nat
deriving DecidableEq, Repr

/-- Why the machine stops. Both stops are the host's reads of the result register; no instruction reads it (R28). -/
inductive Fault where
  /-- Raised by `State.readStatus`, `readData` and `readCause` while `res.valid = 0`: "a model treats reading them as a
  fault" (R270, U18). Safe: the value is unspecified. -/
  | resultNotValid
  /-- Raised by `State.readCause` when the status is not TRANSPORT: the cause "is unspecified and must not be read"
  (R243, U19). Safe: the value is unspecified. -/
  | causeNotTransport
deriving DecidableEq, Repr

/-- Why the model gives no meaning. -/
inductive Refusal where
  /-- Raised by exec's arm of an instruction that has no meaning yet; no arm raises it now. Safe. -/
  | notModelled (mnemonic : String)
  /-- Raised by `step` on a Command Frame word that is no instruction of the table: a read frame with a payload, which
  the block never sends (R92, R103 (d)). Safe: nothing is said of it. -/
  | undecodable (e : DecodeError)
deriving DecidableEq, Repr

/-- The device's state at the start. DESIGN CHOICE (unsafe): the spec leaves it unspecified (R33, U3, U4; log 8). -/
def zeroDevice : Device where
  regs    := Vector.replicate 16 0#11
  pending := 0#16
  wReply  := 0#16

/-- The machine with the parameters c right after reset: IDLE, no valid result, the bus owned; "The configuration
parameters hold their configured values" (R270, R4). The values of `req`, `img`, `s1`, of the fields of `res` but
`valid`, and of `env` are the model's (log 2, 7, 8). -/
def State.resetWith (c : Config) : State where
  cfg       := c
  seq       := .idle
  req       := ⟨0#5, 0#4, 0#11, 0#11⟩
  img       := 0#11
  s1        := 0#11
  res       := ⟨false, .ok, 0#16, .base⟩
  ownsBus   := true
  env       := ⟨.free, [], 0, zeroDevice⟩
  trace     := []
  inputs    := []
  out       := .none
  freeCount := 0

/-- The machine right after reset, at the default parameters (R270, 00_scope.md section 4; log 4). -/
def State.reset : State := State.resetWith Config.default

end Sys2Proof.Machine
end

