-- ==== Sys2Proof/Machine/Environment.lean ====
section
/-! DEFINITION. The environment agent (60_exceptions.md R251): how it answers one exchange, and the reference device
(20_memory.md R80 to R84), which is one instance of it. -/
namespace Sys2Proof.Machine

/-- The reference device in one exchange (R81 to R83): it sends the pending frame, then acts on the frame it got. Its
status registers, which ignore a write, are addresses 0 and 1 (R83). It sets no bit 15 itself (R82, R84); one that the
vector's own `pending` or `wReply` holds is sent as it stands (DESIGN CHOICE, safe; log 26). -/
def deviceExchange (d : Device) (tx : BytePair) : BytePair × Device :=
  match decodeCommand (fromBytes tx) with
  | (true, a, _) => (toBytes d.pending, { d with pending := zext16' (d.regs.get a.toFin) })
  | (false, a, v) =>
    (toBytes d.pending,
     { d with regs := if a = 0#4 ∨ a = 1#4 then d.regs else d.regs.set a.toNat v a.isLt, pending := d.wReply })
where
  /-- `zext_16` of a register (R82). -/
  zext16' (v : RegValue) : Frame := v.setWidth 16

/-- A reply with its frame-error bit set on the way (95_test_vectors.md P5). -/
def flagReply (p : BytePair) : BytePair := { p with first := p.first ||| 0x80#8 }

/-- The next draw: the scripted one, else the reference device, else a free draw (R84, R140; log 2). -/
def Env.draw (e : Env) : Draw × Env :=
  match e.script with
  | d :: ds => (d, { e with script := ds })
  | [] => match e.kind with
    | .free => (Config.freeDraw e.drawn, { e with drawn := e.drawn + 1 })
    | .reference => (.reference, e)

/-- What one draw makes of an exchange in which the bytes tx are sent. -/
def Env.apply (e : Env) (tx : BytePair) : Draw → Answer × Env
  | .any ans after => (ans, { e with dev := after.getD e.dev })
  | .reference => (.reply (deviceExchange e.dev tx).1, { e with dev := (deviceExchange e.dev tx).2 })
  | .flagged => (.reply (flagReply (deviceExchange e.dev tx).1), { e with dev := (deviceExchange e.dev tx).2 })

/-- `transport.exchange` (R140): the environment's answer to two bytes. -/
def Env.exchange (e : Env) (tx : BytePair) : Answer × Env := e.draw.2.apply tx e.draw.1

end Sys2Proof.Machine
end

