-- ==== Sys2Proof/Machine/Operands.lean ====
section
/-! DEFINITION. Operand forms: the register map's field functions and record decoders (42_register_map.md R172 to R179),
the image a read-modify-write writes (R181), and the operand checks of 30_encoding.md R98. -/
namespace Sys2Proof.Machine

/-- EXTRACT (R172): the field's bits, at the bottom of an 11-bit value. -/
def extractField (l : FieldLayout) (v : RegValue) (f : FieldName) : RegValue :=
  (v >>> (l.slot f).lsb) &&& (l.slot f).ones

/-- A code at its field's place: `zext_11(code) << lsb` (R99). -/
def placeCode (l : FieldLayout) (f : FieldName) (code : RegValue) : RegValue := code <<< (l.slot f).lsb

/-- The image a read-modify-write writes: `(old & ~mask) | (bits & mask)` (R181). -/
def modifyImage (old mask bits : RegValue) : RegValue := (old &&& ~~~mask) ||| (bits &&& mask)

/-- INSERT (R173). -/
def insertField (l : FieldLayout) (v : RegValue) (f : FieldName) (code : RegValue) : RegValue :=
  modifyImage v (l.slot f).mask (placeCode l f code)

/-- A one-bit field read as a Boolean, 1 = true (R174). -/
def extractFlag (l : FieldLayout) (v : RegValue) (f : FieldName) : Bool := extractField l v f != 0#11

/-- A Boolean as a one-bit field's code. -/
def flagCode (b : Bool) : RegValue := if b then 1#11 else 0#11

/-- The bits of a register that some field covers (R170). -/
def coveredBits (l : FieldLayout) (r : Reg) : RegValue :=
  (FieldName.all.filter (·.reg == r)).foldl (fun m f => m ||| (l.slot f).mask) 0#11

/-- The reserved bits of a value of register r, at their own places (R170, R178). -/
def reservedBits (l : FieldLayout) (r : Reg) (v : RegValue) : RegValue := v &&& ~~~coveredBits l r

/-- DECODE_SR1 (R174). -/
def decodeSr1 (l : FieldLayout) (v : RegValue) : Sr1 where
  fault   := extractFlag l v .fault
  gvddUv  := extractFlag l v .gvddUv
  pvddUv  := extractFlag l v .pvddUv
  otsd    := extractFlag l v .otsd
  otw     := extractFlag l v .otw
  fethaOc := extractFlag l v .fethaOc
  fetlaOc := extractFlag l v .fetlaOc
  fethbOc := extractFlag l v .fethbOc
  fetlbOc := extractFlag l v .fetlbOc
  fethcOc := extractFlag l v .fethcOc
  fetlcOc := extractFlag l v .fetlcOc
  rsvd    := reservedBits l .sr1 v

/-- DECODE_SR2 (R175). -/
def decodeSr2 (l : FieldLayout) (v : RegValue) : Sr2 where
  gvddOv   := extractFlag l v .gvddOv
  deviceId := extractField l v .deviceId
  rsvd     := reservedBits l .sr2 v

/-- DECODE_CR1 (R176). -/
def decodeCr1 (l : FieldLayout) (v : RegValue) : Cr1 where
  ocAdjSet    := extractField l v .ocAdjSet
  ocpMode     := extractField l v .ocpMode
  pwmMode     := extractField l v .pwmMode
  gateReset   := extractField l v .gateReset
  gateCurrent := extractField l v .gateCurrent
  rsvd        := reservedBits l .cr1 v

/-- DECODE_CR2 (R177). -/
def decodeCr2 (l : FieldLayout) (v : RegValue) : Cr2 where
  ocToff   := extractField l v .ocToff
  dcCalCh2 := extractField l v .dcCalCh2
  dcCalCh1 := extractField l v .dcCalCh1
  gain     := extractField l v .gain
  octwMode := extractField l v .octwMode
  rsvd     := reservedBits l .cr2 v

/-- The members rsvd_hi and rsvd_mid of R175: SR2's bits 10:8 and 6:4, which are reserved at the default layout. -/
def sr2RsvdHi (r : Sr2) : BitVec 3 := r.rsvd.extractLsb' 8 3
def sr2RsvdMid (r : Sr2) : BitVec 3 := r.rsvd.extractLsb' 4 3

/-- The member rsvd of R177: CR2's bits 10:7, which are reserved at the default layout. -/
def cr2Rsvd (r : Cr2) : BitVec 4 := r.rsvd.extractLsb' 7 4

/-- The register a record is of (R178). -/
def recordReg : RegRecord → Reg
  | .sr1 _ => .sr1
  | .sr2 _ => .sr2
  | .cr1 _ => .cr1
  | .cr2 _ => .cr2

/-- The named members of a record, as codes. -/
def recordMembers : RegRecord → List (FieldName × RegValue)
  | .sr1 r =>
    [(.fault, flagCode r.fault), (.gvddUv, flagCode r.gvddUv), (.pvddUv, flagCode r.pvddUv),
     (.otsd, flagCode r.otsd), (.otw, flagCode r.otw), (.fethaOc, flagCode r.fethaOc),
     (.fetlaOc, flagCode r.fetlaOc), (.fethbOc, flagCode r.fethbOc), (.fetlbOc, flagCode r.fetlbOc),
     (.fethcOc, flagCode r.fethcOc), (.fetlcOc, flagCode r.fetlcOc)]
  | .sr2 r => [(.gvddOv, flagCode r.gvddOv), (.deviceId, r.deviceId)]
  | .cr1 r =>
    [(.ocAdjSet, r.ocAdjSet), (.ocpMode, r.ocpMode), (.pwmMode, r.pwmMode), (.gateReset, r.gateReset),
     (.gateCurrent, r.gateCurrent)]
  | .cr2 r =>
    [(.ocToff, r.ocToff), (.dcCalCh2, r.dcCalCh2), (.dcCalCh1, r.dcCalCh1), (.gain, r.gain), (.octwMode, r.octwMode)]

/-- The reserved bits a record keeps. -/
def recordRsvd : RegRecord → RegValue
  | .sr1 r => r.rsvd
  | .sr2 r => r.rsvd
  | .cr1 r => r.rsvd
  | .cr2 r => r.rsvd

/-- ENCODE_R (R178): every member, the reserved bits included, back at its bits. DESIGN CHOICE (unsafe for such records
alone): a member wider than its field, and bits of `rsvd` at places that a field covers, which no record of R174 to R177
has, are cut by the masks (log 27). -/
def encodeRecord (l : FieldLayout) (r : RegRecord) : RegValue :=
  (recordMembers r).foldl (fun v m => insertField l v m.1 m.2) (reservedBits l (recordReg r) (recordRsvd r))

/-- DECODE of a register's value into its record (R174 to R177). -/
def decodeRecord (l : FieldLayout) (r : Reg) (v : RegValue) : RegRecord :=
  match r with
  | .sr1 => .sr1 (decodeSr1 l v)
  | .sr2 => .sr2 (decodeSr2 l v)
  | .cr1 => .cr1 (decodeCr1 l v)
  | .cr2 => .cr2 (decodeCr2 l v)

/-- The FaultStatus aggregate of two register values (R179). -/
def faultStatusOf (l : FieldLayout) (v1 v2 : RegValue) : FaultStatus where
  fault    := extractFlag l v1 .fault
  gvddUv   := extractFlag l v1 .gvddUv
  pvddUv   := extractFlag l v1 .pvddUv
  otsd     := extractFlag l v1 .otsd
  otw      := extractFlag l v1 .otw
  fethaOc  := extractFlag l v1 .fethaOc
  fetlaOc  := extractFlag l v1 .fetlaOc
  fethbOc  := extractFlag l v1 .fethbOc
  fetlbOc  := extractFlag l v1 .fetlbOc
  fethcOc  := extractFlag l v1 .fethcOc
  fetlcOc  := extractFlag l v1 .fetlcOc
  gvddOv   := extractFlag l v2 .gvddOv
  deviceId := extractField l v2 .deviceId

/-- FAULT_STATUS packed (R179): `data[10:0] = v1`, `data[11] = GVDD_OV`, `data[15:12] = DEVICE_ID`. -/
def packFaultStatus (l : FieldLayout) (v1 v2 : RegValue) : BitVec 16 :=
  (extractField l v2 .deviceId).extractLsb' 0 4 ++ (extractField l v2 .gvddOv).extractLsb' 0 1 ++ v1

/-- `zext_16` of a register value (R101). -/
def zext16 (v : RegValue) : BitVec 16 := v.setWidth 16

/-- R98 for an operation that uses no operand field. -/
def noOperandsLegal (addr : Addr) (a b : RegValue) : Bool := addr == 0#4 && (a == 0#11 && b == 0#11)

/-- R98 and R200 for a setter of field f: ADDR and A are zero, the code fits the field and is not reserved. -/
def setterLegal (c : Config) (f : FieldName) (addr : Addr) (a code : RegValue) : Bool :=
  addr == 0#4 && (a == 0#11 && (decide (code.toNat < 2 ^ (c.layout.slot f).width) && !c.isReserved f code))

/-- R98 for RAW_MODIFY: `B & ~A = 0`. -/
def maskLegal (a b : RegValue) : Bool := b &&& ~~~a == 0#11

end Sys2Proof.Machine
end

