-- ==== Sys2Proof/Machine/Flags.lean ====
section
/-! DEFINITION. The block's flags: the status codes (30_encoding.md R102), the errors that set them (60_exceptions.md
R240), and the two tests of the frame-error flag (10_state.md R27, 60_exceptions.md R242). -/
namespace Sys2Proof.Machine

/-- The two-bit status code (R102). -/
def Status.code : Status → BitVec 2
  | .ok => 0
  | .transport => 1
  | .frameError => 2
  | .notSupported => 3

/-- The three error kinds an operation can raise (R240); a transport error carries the adapter's cause (R241). -/
inductive OpError where
  | transport (c : TransportCause)
  | frameError
  | notSupported
deriving DecidableEq, Repr

/-- The status an error is recorded as (R240). -/
def errorStatus : OpError → Status
  | .transport _ => .transport
  | .frameError => .frameError
  | .notSupported => .notSupported

/-- The read's test, on its second reply (R145). -/
def readFlagged (rx : Frame) : Bool := (decodeResponse rx).1

/-- The write's test, on its own reply, only under WRITE_FE_CHECK (R142). -/
def writeFlagged (c : Config) (rx : Frame) : Bool := c.writeFeCheck && frameError rx

end Sys2Proof.Machine
end

