-- ==== Sys2Proof/Machine/Ops.lean ====
section
/-! DEFINITION. The operations the meanings share: one exchange (R140), accepting a request (R26 (a)), ending an
operation with a value (R26 (c), R101) or with an error (R243), refusing a request (R100), resetting the block (R271),
and the host's reads of the result register (R270, U18, U19). -/
namespace Sys2Proof.Machine

/-- `seq.k <- seq.k + 1` (R26 (b)). -/
def countExchange : Seq → Seq
  | .idle => .idle
  | .busy op k => .busy op (k + 1)

/-- How an exchange leaves the block (R140): a frame received, an error, or no end yet. -/
inductive Exchanged where
  | received (rx : Frame) (s : State)
  | failed (c : TransportCause) (s : State)
  | waiting (s : State)
deriving DecidableEq, Repr

/-- `Exchange(tx)` (R140). An exchange that has not ended leaves the block as it was (R250; log 3). -/
def State.exchange (s : State) (tx : Frame) : Exchanged :=
  match s.env.exchange (toBytes tx) with
  | (.reply p, e) =>
    .received (fromBytes p)
      { s with env := e, trace := s.trace ++ [.completed tx (fromBytes p)], seq := countExchange s.seq }
  | (.fail c, e) => .failed c { s with env := e, trace := s.trace ++ [.failed tx c] }
  | (.stall, e) => .waiting { s with env := e }

/-- OP of an operation (R97); the engine sequences used alone have none. -/
def Operation.opcode : Operation → Option (BitVec 5)
  | .rawRead => some 0x00
  | .rawWrite => some 0x01
  | .rawModify => some 0x02
  | .hasFault => some 0x03
  | .getDeviceId => some 0x04
  | .getFaultStatus => some 0x05
  | .setOcAdj => some 0x06
  | .setOcpMode => some 0x07
  | .setPwmMode => some 0x08
  | .setGateReset => some 0x09
  | .setGateCurrent => some 0x0A
  | .setGain => some 0x0B
  | .setOctwMode => some 0x0C
  | .setDcCalCh1 => some 0x0D
  | .setDcCalCh2 => some 0x0E
  | .setOcToff => some 0x0F
  | .writeRegister => none
  | .readRegister => none
  | .modifyRegister => none

/-- Accepting a request (R26 (a)): the fields are latched (R23, R96) and the result is no longer valid (R25). -/
def State.accept (s : State) (op : Operation) (addr : Addr) (a b : RegValue) : State :=
  { s with
    seq := .busy op 0
    req := ⟨op.opcode.getD s.req.op, addr, a, b⟩
    res := { s.res with valid := false } }

/-- Ending with `return v` (R26 (c), R101): status OK. The cause is unspecified: a free value (R25, R243; log 6). -/
def State.finish (s : State) (data : BitVec 16) : State :=
  { s with
    seq := .idle
    res := ⟨true, .ok, data, Config.freeCause s.freeCount⟩
    freeCount := s.freeCount + 1 }

/-- What `res.cause` holds after error e: the adapter's cause, unchanged, for Transport (R241); otherwise it is
unspecified (R243), so a free value (log 6). -/
def State.errorCause (s : State) : OpError → TransportCause
  | .transport c => c
  | .frameError => Config.freeCause s.freeCount
  | .notSupported => Config.freeCause s.freeCount

/-- Ending with `raise E`: the one error entry (R243). No data of a failed operation is kept. -/
def State.raise (s : State) (e : OpError) : State :=
  { s with
    seq := .idle
    res := ⟨true, errorStatus e, 0#16, s.errorCause e⟩
    freeCount := s.freeCount + 1 }

/-- A refused request (R100, R244): NotSupported at once, no exchange, nothing changed but `res` (log 9). -/
def State.refuse (s : State) : State := s.raise .notSupported

/-- Something done only in IDLE: in BUSY the block accepts nothing, so it stays as it is (R22; log 10). -/
def State.whenIdle (s : State) (f : State → State) : Host.Outcome State Fault Refusal :=
  match s.seq with
  | .idle => .next (f s)
  | .busy _ _ => .next s

/-- A pure function used alone: its value at the model's output, and nothing else (R127; log 11). -/
def State.output (s : State) (o : Output) : Host.Outcome State Fault Refusal :=
  s.whenIdle fun t => { t with out := o }

/-- A checked encoder used alone (R121): the frame at the output, or no frame and NotSupported (R244 (f)). -/
def State.outputChecked (s : State) (r : Option Frame) : Host.Outcome State Fault Refusal :=
  s.whenIdle fun t =>
    match r with
    | some f => { t with out := .frame f }
    | none => { t with out := .none }.raise .notSupported

/-- A reset of the block (R270, R271): IDLE, no valid result, the bus owned. No frame is sent; the device, the
configuration and what the host has placed stay; the operation in progress is abandoned. -/
def State.blockReset (s : State) : State :=
  { s with seq := .idle, res := { s.res with valid := false }, ownsBus := true }

/-- The host reads `res.status` (U18). -/
def State.readStatus (s : State) : Except Fault Status :=
  if s.res.valid then .ok s.res.status else .error .resultNotValid

/-- The host reads `res.data` (U18). -/
def State.readData (s : State) : Except Fault (BitVec 16) :=
  if s.res.valid then .ok s.res.data else .error .resultNotValid

/-- The host reads `res.cause` (U18, U19). -/
def State.readCause (s : State) : Except Fault TransportCause :=
  if s.res.valid then
    if s.res.status = .transport then .ok s.res.cause else .error .causeNotTransport
  else .error .resultNotValid

end Sys2Proof.Machine
end

