-- ==== Sys2Proof/Machine/Sequencer.lean ====
section
/-! DEFINITION. The sequencer (10_state.md R22, R26): which exchanges an operation has, which frame each sends, what its
reply does, and running an operation until it ends or an exchange has not ended yet. The engine's sequences
(41_access_engine.md R141 to R146) and the read-modify-write (42_register_map.md R181 to R183) stand here once, and the
operations of 41, 42 and 43 share them. -/
namespace Sys2Proof.Machine

/-- The kinds of exchange: the first and the second of a read (R143), and a write's one (R141). -/
inductive Stage where
  | readFirst | readSecond | write
deriving DecidableEq, Repr

/-- The field a setter sets (R204 to R213). -/
def Operation.field : Operation → Option FieldName
  | .setOcAdj => some .ocAdjSet
  | .setOcpMode => some .ocpMode
  | .setPwmMode => some .pwmMode
  | .setGateReset => some .gateReset
  | .setGateCurrent => some .gateCurrent
  | .setGain => some .gain
  | .setOctwMode => some .octwMode
  | .setDcCalCh1 => some .dcCalCh1
  | .setDcCalCh2 => some .dcCalCh2
  | .setOcToff => some .ocToff
  | .rawRead | .rawWrite | .rawModify | .hasFault | .getDeviceId | .getFaultStatus => none
  | .writeRegister | .readRegister | .modifyRegister => none

/-- The exchanges of an operation, in order (R143, R141, R181, R201 to R203). Their number is R282's count on success. -/
def Operation.plan : Operation → List Stage
  | .rawRead | .hasFault | .getDeviceId | .readRegister => [.readFirst, .readSecond]
  | .rawWrite | .writeRegister => [.write]
  | .getFaultStatus => [.readFirst, .readSecond, .readFirst, .readSecond]
  | .rawModify | .modifyRegister => [.readFirst, .readSecond, .write]
  | .setOcAdj | .setOcpMode | .setPwmMode | .setGateReset | .setGateCurrent =>
    [.readFirst, .readSecond, .write]
  | .setGain | .setOctwMode | .setDcCalCh1 | .setDcCalCh2 | .setOcToff => [.readFirst, .readSecond, .write]

/-- The register exchange k of an operation goes to: the request's address for the raw operations and the sequences, and
a fixed register for the others (R215). GET_FAULT_STATUS reads SR1, then SR2 (R203). -/
def State.target (s : State) (op : Operation) (k : Nat) : Addr :=
  match op.field with
  | some f => s.cfg.regAddr.of f.reg
  | none => match op with
    | .hasFault => s.cfg.regAddr.of .sr1
    | .getDeviceId => s.cfg.regAddr.of .sr2
    | .getFaultStatus => if k < 2 then s.cfg.regAddr.of .sr1 else s.cfg.regAddr.of .sr2
    | _ => s.req.addr

/-- The value an operation writes: its own operand for a plain write (R141, R150), the modified image for a
read-modify-write (R181). -/
def State.writeValue (s : State) (op : Operation) : RegValue :=
  match op with
  | .rawWrite | .writeRegister => s.req.b
  | _ => s.img

/-- The frame exchange k of an operation sends: RD for both exchanges of a read, the identical frame (R143), WR for a
write (R141). -/
def State.frameFor (s : State) (op : Operation) (k : Nat) : Stage → Frame
  | .readFirst => packRead (s.target op k)
  | .readSecond => packRead (s.target op k)
  | .write => packWrite (s.target op k) (s.writeValue op)

/-- The mask and the bits of a read-modify-write: the request's own (R181, R184), or the field's mask and the code at
the field's place for a setter (R200). -/
def State.mutation (s : State) (op : Operation) : RegValue × RegValue :=
  match op.field with
  | some f => ((s.cfg.layout.slot f).mask, placeCode s.cfg.layout f s.req.b)
  | none => (s.req.a, s.req.b)

/-- What follows a read that gave `img` at exchange k. -/
def State.afterRead (s : State) (op : Operation) (k : Nat) : State :=
  match op with
  -- R149; R143 used alone
  | .rawRead | .readRegister => s.finish (zext16 s.img)
  -- R201
  | .hasFault => s.finish (zext16 (extractField s.cfg.layout s.img .fault))
  -- R202
  | .getDeviceId => s.finish (zext16 (extractField s.cfg.layout s.img .deviceId))
  -- R203: SR1 is kept in s1, then SR2 is read
  | .getFaultStatus =>
    if k < 2 then { s with s1 := s.img } else s.finish (packFaultStatus s.cfg.layout s.s1 s.img)
  -- a plain write reads nothing
  | .rawWrite | .writeRegister => s
  -- R181: the modified image
  | _ => { s with img := modifyImage s.img (s.mutation op).1 (s.mutation op).2 }

/-- What the reply to exchange k does. The first reply of a read is discarded completely (R144); the second is tested
and its data kept (R145); a write's reply is tested only under WRITE_FE_CHECK (R142) and otherwise discarded. -/
def State.onReply (s : State) (op : Operation) (k : Nat) (rx : Frame) : Stage → State
  | .readFirst => s
  | .readSecond =>
    if readFlagged rx then s.raise .frameError
    else { s with img := (decodeResponse rx).2 }.afterRead op k
  | .write => if writeFlagged s.cfg rx then s.raise .frameError else s.finish 0#16

/-- At most n exchanges of the operation in progress: it stops when the operation ends, at the first error (R146, R151),
or at an exchange that has not ended (R140). -/
def State.advance : Nat → State → State
  | 0, s => s
  | n + 1, s =>
    match s.seq with
    | .idle => s
    | .busy op k =>
      match op.plan[k]? with
      | none => s
      | some stage =>
        match s.exchange (s.frameFor op k stage) with
        | .received rx t => (t.onReply op k rx stage).advance n
        | .failed c t => t.raise (.transport c)
        | .waiting t => t

/-- The operation in progress, as far as the environment answers: "The number of exchanges of each operation is bounded
by 4" (R26). -/
def State.resume (s : State) : State := s.advance 4

/-- A request (R22, R26, R98, R244): refused before any exchange if its operands are not legal, otherwise accepted and
carried out. -/
def State.request (s : State) (legal : Bool) (op : Operation) (addr : Addr) (a b : RegValue) :
    Host.Outcome State Fault Refusal :=
  s.whenIdle fun t => if legal then (t.accept op addr a b).resume else t.refuse

end Sys2Proof.Machine
end

