-- ==== Sys2Proof/Machine/CodecUse.lean ====
section
/-! DEFINITION. The functions of the Frame Codec used alone (40_codec.md R120 to R127; log 11). -/
namespace Sys2Proof.Machine

/-- WRITE_FRAME: ENCODE_WRITE (R120), checked (R121). -/
def execWriteFrame (address value : Nat) (s : State) : Host.Outcome State Fault Refusal :=
  s.outputChecked (encodeWrite address value)

/-- READ_FRAME: ENCODE_READ (R122), checked (R121). -/
def execReadFrame (address : Nat) (s : State) : Host.Outcome State Fault Refusal :=
  s.outputChecked (encodeRead address)

/-- RESPONSE_FRAME: DECODE_RESPONSE (R123). -/
def execResponseFrame (frame : Frame) (s : State) : Host.Outcome State Fault Refusal :=
  s.output (.response (decodeResponse frame).1 (decodeResponse frame).2)

/-- DECODE_COMMAND (R124). -/
def execDecodeCommand (frame : Frame) (s : State) : Host.Outcome State Fault Refusal :=
  s.output (.command (decodeCommand frame).1 (decodeCommand frame).2.1 (decodeCommand frame).2.2)

/-- TO_BYTES (R125). -/
def execToBytes (frame : Frame) (s : State) : Host.Outcome State Fault Refusal :=
  s.output (.bytes (toBytes frame))

/-- FROM_BYTES (R126). -/
def execFromBytes (b0 b1 : Byte) (s : State) : Host.Outcome State Fault Refusal :=
  s.output (.frame (fromBytes ⟨b0, b1⟩))

end Sys2Proof.Machine
end

