-- ==== Sys2Proof/Machine/Engine.lean ====
section
/-! DEFINITION. The sequences of the Register Access Engine used alone (41_access_engine.md R141, R143) and the read-modify-write
(42_register_map.md R181): operations of the sequencer that check no operand (log 12). -/
namespace Sys2Proof.Machine

/-- WriteRegister(a, v) (R141). -/
def execWriteRegister (a : Addr) (v : RegValue) (s : State) : Host.Outcome State Fault Refusal :=
  s.request true .writeRegister a 0#11 v

/-- ReadRegister(a) (R143). -/
def execReadRegister (a : Addr) (s : State) : Host.Outcome State Fault Refusal :=
  s.request true .readRegister a 0#11 0#11

/-- ModifyRegister(a, mask, bits) (R181). -/
def execModifyRegister (a : Addr) (mask bits : RegValue) (s : State) : Host.Outcome State Fault Refusal :=
  s.request true .modifyRegister a mask bits

end Sys2Proof.Machine
end

