-- ==== Sys2Proof/Machine/Query.lean ====
section
/-! DEFINITION. The fault queries of the Command Layer (43_command_layer.md R201 to R203, R215). -/
namespace Sys2Proof.Machine

/-- HAS_FAULT (R201): the master fault flag of SR1. -/
def execHasFault (addr : Addr) (a b : RegValue) (s : State) : Host.Outcome State Fault Refusal :=
  s.request (noOperandsLegal addr a b) .hasFault addr a b

/-- GET_DEVICE_ID (R202): the device-identity field of SR2. -/
def execGetDeviceId (addr : Addr) (a b : RegValue) (s : State) : Host.Outcome State Fault Refusal :=
  s.request (noOperandsLegal addr a b) .getDeviceId addr a b

/-- GET_FAULT_STATUS (R203): SR1, then SR2, packed as R179 says. -/
def execGetFaultStatus (addr : Addr) (a b : RegValue) (s : State) : Host.Outcome State Fault Refusal :=
  s.request (noOperandsLegal addr a b) .getFaultStatus addr a b

end Sys2Proof.Machine
end

