-- ==== Sys2Proof/Machine/Raw.lean ====
section
/-! DEFINITION. The raw operations: RAW_READ, RAW_WRITE (41_access_engine.md R149, R150) and RAW_MODIFY
(42_register_map.md R184). -/
namespace Sys2Proof.Machine

/-- RAW_READ (R149): reads one register at any address; A and B must be 0. -/
def execRawRead (addr : Addr) (a b : RegValue) (s : State) : Host.Outcome State Fault Refusal :=
  s.request (a == 0#11 && b == 0#11) .rawRead addr a b

/-- RAW_WRITE (R150): writes one whole register at any address; A must be 0. -/
def execRawWrite (addr : Addr) (a b : RegValue) (s : State) : Host.Outcome State Fault Refusal :=
  s.request (a == 0#11) .rawWrite addr a b

/-- RAW_MODIFY (R184): changes the bits under the mask A to B; `B & ~A = 0`. -/
def execRawModify (addr : Addr) (a b : RegValue) (s : State) : Host.Outcome State Fault Refusal :=
  s.request (maskLegal a b) .rawModify addr a b

end Sys2Proof.Machine
end

