-- ==== Sys2Proof/Machine/Refused.lean ====
section
/-! DEFINITION. The words that select no operation (30_encoding.md R100, 60_exceptions.md R244 (a)). -/
namespace Sys2Proof.Machine

/-- UNASSIGNED (R100): OP in 0x10 to 0x1F; NotSupported with no exchange, whatever the other fields hold. -/
def execUnassigned (_opLow : BitVec 4) (_addr : Addr) (_a _b : RegValue) (s : State) : Host.Outcome State Fault Refusal :=
  s.whenIdle fun t => t.refuse

/-- RSV_SET (R100): RSV = 1; NotSupported with no exchange, whatever the other bits hold. -/
def execRsvSet (_rest : BitVec 31) (s : State) : Host.Outcome State Fault Refusal :=
  s.whenIdle fun t => t.refuse

end Sys2Proof.Machine
end

