-- ==== Sys2Proof/Machine/RegisterMap.lean ====
section
/-! DEFINITION. The functions of the Register Map used alone (42_register_map.md R172 to R179; log 11). -/
namespace Sys2Proof.Machine

/-- EXTRACT (R172). -/
def execExtract (v : RegValue) (f : FieldName) (s : State) : Host.Outcome State Fault Refusal :=
  s.output (.fieldValue (extractField s.cfg.layout v f))

/-- INSERT (R173). A code that does not fit is cut by the mask, as the pseudocode's `& m` says (log 23). -/
def execInsert (v : RegValue) (f : FieldName) (code : RegValue) (s : State) : Host.Outcome State Fault Refusal :=
  s.output (.regValue (insertField s.cfg.layout v f code))

/-- DECODE_SR1 (R174). -/
def execDecodeSr1 (v : RegValue) (s : State) : Host.Outcome State Fault Refusal :=
  s.output (.record (.sr1 (decodeSr1 s.cfg.layout v)))

/-- DECODE_SR2 (R175). -/
def execDecodeSr2 (v : RegValue) (s : State) : Host.Outcome State Fault Refusal :=
  s.output (.record (.sr2 (decodeSr2 s.cfg.layout v)))

/-- DECODE_CR1 (R176). -/
def execDecodeCr1 (v : RegValue) (s : State) : Host.Outcome State Fault Refusal :=
  s.output (.record (.cr1 (decodeCr1 s.cfg.layout v)))

/-- DECODE_CR2 (R177). -/
def execDecodeCr2 (v : RegValue) (s : State) : Host.Outcome State Fault Refusal :=
  s.output (.record (.cr2 (decodeCr2 s.cfg.layout v)))

/-- ENCODE_R (R178). A record that no decoder gives is cut by the masks, not refused (log 27). -/
def execEncodeR (r : RegRecord) (s : State) : Host.Outcome State Fault Refusal :=
  s.output (.regValue (encodeRecord s.cfg.layout r))

/-- FAULT_STATUS (R179): the aggregate and its packed form. -/
def execFaultStatus (v1 v2 : RegValue) (s : State) : Host.Outcome State Fault Refusal :=
  s.output (.faultStatus (faultStatusOf s.cfg.layout v1 v2) (packFaultStatus s.cfg.layout v1 v2))

end Sys2Proof.Machine
end

