-- ==== Sys2Proof/Machine/Setter.lean ====
section
/-! DEFINITION. The ten setters of the Command Layer (43_command_layer.md R200, R204 to R213): each one read-modify-write
of one field, its code in B. -/
namespace Sys2Proof.Machine

/-- SET_OC_ADJ (R204): sets OC_ADJ_SET. -/
def execSetOcAdj (addr : Addr) (a b : RegValue) (s : State) : Host.Outcome State Fault Refusal :=
  s.request (setterLegal s.cfg .ocAdjSet addr a b) .setOcAdj addr a b

/-- SET_OCP_MODE (R205): sets OCP_MODE. -/
def execSetOcpMode (addr : Addr) (a b : RegValue) (s : State) : Host.Outcome State Fault Refusal :=
  s.request (setterLegal s.cfg .ocpMode addr a b) .setOcpMode addr a b

/-- SET_PWM_MODE (R206): sets PWM_MODE. -/
def execSetPwmMode (addr : Addr) (a b : RegValue) (s : State) : Host.Outcome State Fault Refusal :=
  s.request (setterLegal s.cfg .pwmMode addr a b) .setPwmMode addr a b

/-- SET_GATE_RESET (R207): sets GATE_RESET. -/
def execSetGateReset (addr : Addr) (a b : RegValue) (s : State) : Host.Outcome State Fault Refusal :=
  s.request (setterLegal s.cfg .gateReset addr a b) .setGateReset addr a b

/-- SET_GATE_CURRENT (R208): sets GATE_CURRENT. -/
def execSetGateCurrent (addr : Addr) (a b : RegValue) (s : State) : Host.Outcome State Fault Refusal :=
  s.request (setterLegal s.cfg .gateCurrent addr a b) .setGateCurrent addr a b

/-- SET_GAIN (R209): sets GAIN. -/
def execSetGain (addr : Addr) (a b : RegValue) (s : State) : Host.Outcome State Fault Refusal :=
  s.request (setterLegal s.cfg .gain addr a b) .setGain addr a b

/-- SET_OCTW_MODE (R210): sets OCTW_MODE. -/
def execSetOctwMode (addr : Addr) (a b : RegValue) (s : State) : Host.Outcome State Fault Refusal :=
  s.request (setterLegal s.cfg .octwMode addr a b) .setOctwMode addr a b

/-- SET_DC_CAL_CH1 (R211): sets DC_CAL_CH1. -/
def execSetDcCalCh1 (addr : Addr) (a b : RegValue) (s : State) : Host.Outcome State Fault Refusal :=
  s.request (setterLegal s.cfg .dcCalCh1 addr a b) .setDcCalCh1 addr a b

/-- SET_DC_CAL_CH2 (R212): sets DC_CAL_CH2. -/
def execSetDcCalCh2 (addr : Addr) (a b : RegValue) (s : State) : Host.Outcome State Fault Refusal :=
  s.request (setterLegal s.cfg .dcCalCh2 addr a b) .setDcCalCh2 addr a b

/-- SET_OC_TOFF (R213): sets OC_TOFF. -/
def execSetOcToff (addr : Addr) (a b : RegValue) (s : State) : Host.Outcome State Fault Refusal :=
  s.request (setterLegal s.cfg .ocToff addr a b) .setOcToff addr a b

end Sys2Proof.Machine
end

