-- ==== Sys2Proof/Machine/Dispatch.lean ====
section
/-! DEFINITION. One arm per instruction: the meaning it calls. -/
namespace Sys2Proof.Machine

/-- What an instruction does in a state. -/
def exec (i : Instr) (s : State) : Host.Outcome State Fault Refusal :=
  match i with
  | .rawRead addr a b => Sys2Proof.Machine.execRawRead addr a b s
  | .rawWrite addr a b => Sys2Proof.Machine.execRawWrite addr a b s
  | .rawModify addr a b => Sys2Proof.Machine.execRawModify addr a b s
  | .hasFault addr a b => Sys2Proof.Machine.execHasFault addr a b s
  | .getDeviceId addr a b => Sys2Proof.Machine.execGetDeviceId addr a b s
  | .getFaultStatus addr a b => Sys2Proof.Machine.execGetFaultStatus addr a b s
  | .setOcAdj addr a b => Sys2Proof.Machine.execSetOcAdj addr a b s
  | .setOcpMode addr a b => Sys2Proof.Machine.execSetOcpMode addr a b s
  | .setPwmMode addr a b => Sys2Proof.Machine.execSetPwmMode addr a b s
  | .setGateReset addr a b => Sys2Proof.Machine.execSetGateReset addr a b s
  | .setGateCurrent addr a b => Sys2Proof.Machine.execSetGateCurrent addr a b s
  | .setGain addr a b => Sys2Proof.Machine.execSetGain addr a b s
  | .setOctwMode addr a b => Sys2Proof.Machine.execSetOctwMode addr a b s
  | .setDcCalCh1 addr a b => Sys2Proof.Machine.execSetDcCalCh1 addr a b s
  | .setDcCalCh2 addr a b => Sys2Proof.Machine.execSetDcCalCh2 addr a b s
  | .setOcToff addr a b => Sys2Proof.Machine.execSetOcToff addr a b s
  | .unassigned opLow addr a b => Sys2Proof.Machine.execUnassigned opLow addr a b s
  | .rsvSet rest => Sys2Proof.Machine.execRsvSet rest s
  | .writeFrame address value => Sys2Proof.Machine.execWriteFrame address value s
  | .readFrame address => Sys2Proof.Machine.execReadFrame address s
  | .responseFrame frame => Sys2Proof.Machine.execResponseFrame frame s
  | .decodeCommand frame => Sys2Proof.Machine.execDecodeCommand frame s
  | .toBytes frame => Sys2Proof.Machine.execToBytes frame s
  | .fromBytes b0 b1 => Sys2Proof.Machine.execFromBytes b0 b1 s
  | .extract v f => Sys2Proof.Machine.execExtract v f s
  | .insert v f code => Sys2Proof.Machine.execInsert v f code s
  | .decodeSr1 v => Sys2Proof.Machine.execDecodeSr1 v s
  | .decodeSr2 v => Sys2Proof.Machine.execDecodeSr2 v s
  | .decodeCr1 v => Sys2Proof.Machine.execDecodeCr1 v s
  | .decodeCr2 v => Sys2Proof.Machine.execDecodeCr2 v s
  | .encodeR r => Sys2Proof.Machine.execEncodeR r s
  | .faultStatus v1 v2 => Sys2Proof.Machine.execFaultStatus v1 v2 s
  | .writeRegister a v => Sys2Proof.Machine.execWriteRegister a v s
  | .readRegister a => Sys2Proof.Machine.execReadRegister a s
  | .modifyRegister a mask bits => Sys2Proof.Machine.execModifyRegister a mask bits s

end Sys2Proof.Machine
end

