-- ==== Sys2Proof/Machine/Fetch.lean ====
section
/-! DEFINITION. What the machine takes next from the host (20_memory.md R72): the command port's requests in issue
order, and resets of the block. -/
namespace Sys2Proof.Machine

/-- What there is to do next. -/
inductive Fetched where
  /-- A reset of the block stands first (R271). -/
  | reset (s : State)
  /-- An operation is in progress: the block accepts nothing and goes on with it (R22, R147). -/
  | running
  /-- IDLE with nothing placed: nothing happens (R248, R253). -/
  | nothing
  /-- IDLE, and this instruction is taken. -/
  | instr (i : Instr) (s : State)
  /-- IDLE, and the word taken is no instruction. -/
  | undecodable (e : DecodeError)
deriving DecidableEq, Repr

/-- Taking one input in IDLE. -/
def State.take (s : State) : Input → Fetched
  | .reset => .reset s
  | .use i => .instr i s
  | .word e => match decode e with
    | .ok i => .instr i s
    | .error r => .undecodable r

/-- The next thing to do, with the input it takes removed. A reset is taken in BUSY too (R271). -/
def State.fetch (s : State) : Fetched :=
  match s.seq, s.inputs with
  | .busy _ _, .reset :: rest => .reset { s with inputs := rest }
  | .busy _ _, _ => .running
  | .idle, [] => .nothing
  | .idle, x :: rest => { s with inputs := rest }.take x

/-- The input that stands for a table row's word. -/
def tableInput (nbits w : Nat) : List Input :=
  match tableWord nbits w with
  | some e => [.word e]
  | none => []

/-- s with the word of a table row as the next input, in IDLE so that it is taken at once (log 13). -/
def State.placeWord (s : State) (nbits w : Nat) : State :=
  { s with seq := .idle, inputs := tableInput nbits w ++ s.inputs }

end Sys2Proof.Machine
end

