-- ==== Sys2Proof/Machine/Step.lean ====
section
/-! DEFINITION. One step of the machine. -/
namespace Sys2Proof.Machine

/-- One step: a reset of the block, the operation in progress, or the next instruction, taken and carried out as far as
the environment answers (R2, R22, R72; log 1). -/
def step (s : State) : Host.Outcome State Fault Refusal :=
  match s.fetch with
  | .reset t => .next t.blockReset
  | .running => .next s.resume
  | .nothing => .next s
  | .instr i t => exec i t
  | .undecodable e => .refused (.undecodable e)

/-- s with the word of a table row stored where step takes its next instruction. -/
def State.withFetchWord (s : State) (nbits w : Nat) : State := s.placeWord nbits w

end Sys2Proof.Machine
end

