-- ==== Sys2Proof/Safety.lean ====
section
/-! DEFINITION. The words the statements are written in: what an environment does with a list of frames, how an
operation leaves the block, which operation and register an instruction is about, the invariant of every step. -/
namespace Sys2Proof.Safety
open Sys2Proof.Machine

/-- The environment e completes the exchanges that send txs, answers them with the frames rxs, one each, and is then e'.
Every answer that is a reply is the bytes of some frame, so this leaves no reply out (R62, R140). -/
def Completes : Env → List Frame → List Frame → Env → Prop
  | e, [], [], e' => e = e'
  | e, tx :: txs, rx :: rxs, e' =>
    ∃ e1, e.exchange (toBytes tx) = (.reply (toBytes rx), e1) ∧ Completes e1 txs rxs e'
  | _, [], _ :: _, _ => False
  | _, _ :: _, [], _ => False

/-- The environment e fails the exchange that sends tx, with cause c, and is then e' (R241). -/
def Fails (e : Env) (tx : Frame) (c : TransportCause) (e' : Env) : Prop :=
  e.exchange (toBytes tx) = (.fail c, e')

/-- The environment e has not ended the exchange that sends tx, and is then e' (R250). -/
def Stalls (e : Env) (tx : Frame) (e' : Env) : Prop :=
  e.exchange (toBytes tx) = (.stall, e')

/-- The trace of completed exchanges (R246). -/
def completedTrace (txs rxs : List Frame) : List TraceEntry := List.zipWith .completed txs rxs

/-- The two frames of a logical read of address a (R143). -/
def readFrames (a : Addr) : List Frame := [packRead a, packRead a]

/-- What no operation writes: the parameters (R34), the bus ownership (R21), what the host has placed, and the model's
output of a pure function (R127). -/
structure SameContext (s t : State) : Prop where
  cfg     : t.cfg = s.cfg
  ownsBus : t.ownsBus = s.ownsBus
  inputs  : t.inputs = s.inputs
  out     : t.out = s.out

/-- t is s after an operation that ended with this status and data, left the environment as e, and made the exchanges l:
IDLE again, a valid result, and the frame (R26 (c), R243). -/
structure Ended (s t : State) (status : Status) (data : BitVec 16) (e : Env) (l : List TraceEntry) : Prop where
  seq     : t.seq = .idle
  valid   : t.res.valid = true
  status  : t.res.status = status
  data    : t.res.data = data
  env     : t.env = e
  trace   : t.trace = s.trace ++ l
  context : SameContext s t

/-- In s the instruction i is one logical read of address a whose result is `data` of the value read: two exchanges of the
read frame `1 ++ a ++ 0`, then OK, or FRAME_ERROR where bit 15 of the second reply is set; a failed exchange ends it at
once (R143, R145, R146). -/
def IsRead (s : State) (i : Instr) (a : Addr) (data : RegValue → BitVec 16) : Prop :=
  (∀ (rx1 rx2 : Frame) (e : Env), Completes s.env [1#1 ++ a ++ 0#11, 1#1 ++ a ++ 0#11] [rx1, rx2] e →
    ∃ t, exec i s = .next t ∧ (rx2.getLsbD 15 = false → t.img = rx2.extractLsb' 0 11) ∧
      Ended s t (if rx2.getLsbD 15 then .frameError else .ok)
        (if rx2.getLsbD 15 then 0#16 else data (rx2.extractLsb' 0 11)) e
        [.completed (1#1 ++ a ++ 0#11) rx1, .completed (1#1 ++ a ++ 0#11) rx2]) ∧
  (∀ (c : TransportCause) (e : Env), Fails s.env (1#1 ++ a ++ 0#11) c e →
    ∃ t, exec i s = .next t ∧ t.res.cause = c ∧ Ended s t .transport 0#16 e [.failed (1#1 ++ a ++ 0#11) c]) ∧
  (∀ (rx1 : Frame) (c : TransportCause) (e1 e2 : Env),
    Completes s.env [1#1 ++ a ++ 0#11] [rx1] e1 → Fails e1 (1#1 ++ a ++ 0#11) c e2 →
    ∃ t, exec i s = .next t ∧ t.res.cause = c ∧
      Ended s t .transport 0#16 e2 [.completed (1#1 ++ a ++ 0#11) rx1, .failed (1#1 ++ a ++ 0#11) c])

/-- s with a refused request's result, and nothing else changed but the counter of free causes (R100). -/
def refusedState (s : State) : State :=
  { s with res := ⟨true, .notSupported, 0#16, Config.freeCause s.freeCount⟩, freeCount := s.freeCount + 1 }

/-- The operation a request or an engine sequence is. -/
def operationOf : Instr → Option Operation
  | .rawRead _ _ _ => some .rawRead
  | .rawWrite _ _ _ => some .rawWrite
  | .rawModify _ _ _ => some .rawModify
  | .hasFault _ _ _ => some .hasFault
  | .getDeviceId _ _ _ => some .getDeviceId
  | .getFaultStatus _ _ _ => some .getFaultStatus
  | .setOcAdj _ _ _ => some .setOcAdj
  | .setOcpMode _ _ _ => some .setOcpMode
  | .setPwmMode _ _ _ => some .setPwmMode
  | .setGateReset _ _ _ => some .setGateReset
  | .setGateCurrent _ _ _ => some .setGateCurrent
  | .setGain _ _ _ => some .setGain
  | .setOctwMode _ _ _ => some .setOctwMode
  | .setDcCalCh1 _ _ _ => some .setDcCalCh1
  | .setDcCalCh2 _ _ _ => some .setDcCalCh2
  | .setOcToff _ _ _ => some .setOcToff
  | .writeRegister _ _ => some .writeRegister
  | .readRegister _ => some .readRegister
  | .modifyRegister _ _ _ => some .modifyRegister
  | .unassigned _ _ _ _ | .rsvSet _ => none
  | .writeFrame _ _ | .readFrame _ | .responseFrame _ | .decodeCommand _ | .toBytes _ | .fromBytes _ _ => none
  | .extract _ _ | .insert _ _ _ | .decodeSr1 _ | .decodeSr2 _ | .decodeCr1 _ | .decodeCr2 _ => none
  | .encodeR _ | .faultStatus _ _ => none

/-- A request of the command port with an assigned OP (R97). -/
def isRequest (i : Instr) : Bool :=
  match i with
  | .writeRegister _ _ | .readRegister _ | .modifyRegister _ _ _ => false
  | i => (operationOf i).isSome

/-- A pure function used alone (R127, 30_encoding.md §2). -/
def isPure : Instr → Bool
  | .writeFrame _ _ | .readFrame _ | .responseFrame _ | .decodeCommand _ | .toBytes _ | .fromBytes _ _ => true
  | .extract _ _ | .insert _ _ _ | .decodeSr1 _ | .decodeSr2 _ | .decodeCr1 _ | .decodeCr2 _ => true
  | .encodeR _ | .faultStatus _ _ => true
  | _ => false

/-- The register the first exchange of an instruction goes to: the request's address for the raw operations and the
engine sequences (R149, R150, R184, R141, R143, R181), a fixed register for the Command Layer (R201 to R213, R215). -/
def firstRegister (c : Config) : Instr → Option Addr
  | .rawRead addr _ _ | .rawWrite addr _ _ | .rawModify addr _ _ => some addr
  | .hasFault _ _ _ | .getFaultStatus _ _ _ => some c.regAddr.sr1
  | .getDeviceId _ _ _ => some c.regAddr.sr2
  | .setOcAdj _ _ _ | .setOcpMode _ _ _ | .setPwmMode _ _ _ | .setGateReset _ _ _ | .setGateCurrent _ _ _ =>
    some c.regAddr.cr1
  | .setGain _ _ _ | .setOctwMode _ _ _ | .setDcCalCh1 _ _ _ | .setDcCalCh2 _ _ _ | .setOcToff _ _ _ =>
    some c.regAddr.cr2
  | .writeRegister a _ | .readRegister a | .modifyRegister a _ _ => some a
  | _ => none

/-- Whether an instruction begins with a logical read: all that have exchanges, but the two plain writes (R282). -/
def readsFirst (i : Instr) : Bool :=
  match i with
  | .rawWrite _ _ _ | .writeRegister _ _ => false
  | i => (operationOf i).isSome

/-- The number of frames on success (R282). -/
def framesOnSuccess : Instr → Nat
  | .rawRead _ _ _ | .hasFault _ _ _ | .getDeviceId _ _ _ | .readRegister _ => 2
  | .rawWrite _ _ _ | .writeRegister _ _ => 1
  | .getFaultStatus _ _ _ => 4
  | i => if (operationOf i).isSome then 3 else 0

/-- The setters and the field each sets (R204 to R213). -/
def setters : List ((Addr → RegValue → RegValue → Instr) × FieldName) :=
  [(.setOcAdj, .ocAdjSet), (.setOcpMode, .ocpMode), (.setPwmMode, .pwmMode), (.setGateReset, .gateReset),
   (.setGateCurrent, .gateCurrent), (.setGain, .gain), (.setOctwMode, .octwMode), (.setDcCalCh1, .dcCalCh1),
   (.setDcCalCh2, .dcCalCh2), (.setOcToff, .ocToff)]

/-- The frame a trace entry sent. -/
def sent : TraceEntry → Frame
  | .completed tx _ => tx
  | .failed tx _ => tx

/-- A read frame (R92). -/
def isReadFrame (f : Frame) : Bool := f.getLsbD 15 && f.extractLsb' 0 11 == 0#11

/-- A Command Frame of one of the forms of R91 and R92: bit 15 clear, or a zero payload. -/
def isBlockFrame (f : Frame) : Bool := !f.getLsbD 15 || isReadFrame f

/-- An error's result carries no data: "On any error `data = 0`" (R101, R243). -/
def noLeak (r : Result) : Prop := r.valid = true → r.status ≠ .ok → r.data = 0#16

/-- A sequencer state that an operation in progress has: fewer exchanges completed than its operation has, so at most 3,
and no valid result (R22, R25, R26). -/
def seqSound (s : State) : Prop :=
  match s.seq with
  | .idle => True
  | .busy op k => k < op.plan.length ∧ s.res.valid = false

/-- The invariant of the machine (R21, R22, R25, R101, R103 (d), R170). -/
structure Inv (s : State) : Prop where
  ownsBus : s.ownsBus = true
  layout  : s.cfg.wf = true
  seq     : seqSound s
  noLeak  : noLeak s.res
  frames  : ∀ x ∈ s.trace, isBlockFrame (sent x) = true

/-- n more steps of the operation in progress. -/
def resumeTimes : Nat → State → State
  | 0, s => s
  | n + 1, s => resumeTimes n s.resume

/-- A draw that only makes the block wait, with the device as it was. -/
def isWait (d : Draw) : Bool := d == .any .stall none

/-- s with the scripted waits taken out. -/
def withoutWaits (s : State) : State :=
  { s with env := { s.env with script := s.env.script.filter fun d => !isWait d } }

/-- A Response Frame with its unused bits 14:11 cleared (R93, R94). -/
def clearUpper (f : Frame) : Frame := f &&& 0x87FF#16

/-- A scripted reply with its bits 14:11 cleared; any other draw as it is. -/
def clearedDraw : Draw → Draw
  | .any (.reply p) after => .any (.reply (toBytes (clearUpper (fromBytes p)))) after
  | d => d

/-- s with bits 14:11 of every scripted reply cleared. -/
def clearedReplies (s : State) : State := { s with env := { s.env with script := s.env.script.map clearedDraw } }

/-- A trace entry with bits 14:11 of its reply cleared; a failed exchange as it is. -/
def clearedEntry : TraceEntry → TraceEntry
  | .completed tx rx => .completed tx (clearUpper rx)
  | .failed tx c => .failed tx c

/-- u is t but for bits 14:11 of replies: those recorded in the trace, entry by entry, and those still scripted, which u
has cleared. -/
def SameButUpperBits (t u : State) : Prop :=
  u.trace.map clearedEntry = t.trace.map clearedEntry ∧ { u with trace := t.trace } = clearedReplies t

/-- s with this reply as the answer to its next exchange, and the draws ds after it. -/
def withReply (s : State) (rx : Frame) (after : Option Device) (ds : List Draw) : State :=
  { s with env := { s.env with script := .any (.reply (toBytes rx)) after :: ds } }

/-- The reference device is on the bus and no draw is scripted (R80 to R84). Its `pending` and `wReply` are any 16 bits,
bit 15 set included (DESIGN CHOICE, safe; log 26). -/
def OnReference (s : State) : Prop := s.env.kind = .reference ∧ s.env.script = []

/-- The host's view of a result: what it may read (R270, U18, U19). -/
def SameResult (r r' : Result) : Prop :=
  r.valid = r'.valid ∧
  (r.valid = true → r.status = r'.status ∧ r.data = r'.data ∧ (r.status = .transport → r.cause = r'.cause))

end Sys2Proof.Safety
end

