-- ==== Sys2Proof/Certificates/Slice0/Obligations.lean ====
section
/-! DEFINITION. The statements for the provers, from the numbered rules of spec/. In all of them `s.seq = .idle` is the
condition under which the block accepts a request (R22), and `Completes e txs rxs e'` says what the environment does
with the exchanges, so that every statement is about every device (R31, R77). -/
open Sys2Proof Sys2Proof.Machine Sys2Proof.Safety

/-! ## The Frame Codec -/

/-- R120, R122: the frames ENCODE_WRITE and ENCODE_READ build, bit for bit, at the model's output; a read frame's payload
is zero; nothing else changes. -/
def Obligations.CommandFramesAreBuiltFromTheirOperands : Prop :=
  ∀ (s : State) (address value : Nat), s.seq = .idle → address ≤ 15 → value ≤ 0x7FF →
    (∃ f : Frame, exec (.writeFrame address value) s = .next { s with out := .frame f } ∧
      f.getLsbD 15 = false ∧ (f.extractLsb' 11 4).toNat = address ∧ (f.extractLsb' 0 11).toNat = value) ∧
    ∃ f : Frame, exec (.readFrame address) s = .next { s with out := .frame f } ∧
      f.getLsbD 15 = true ∧ (f.extractLsb' 11 4).toNat = address ∧ f.extractLsb' 0 11 = 0#11 ∧
      f.toNat = 0x8000 + 0x0800 * address

/-- R121, R244 (f): an operand out of range is rejected with NotSupported, never truncated, and produces no frame. -/
def Obligations.EncodersRejectOperandsOutOfRange : Prop :=
  ∀ (s : State) (address value : Nat), s.seq = .idle →
    (15 < address ∨ 0x7FF < value →
      exec (.writeFrame address value) s = .next (refusedState { s with out := .none })) ∧
    (15 < address → exec (.readFrame address) s = .next (refusedState { s with out := .none }))

/-- R123, R124: DECODE_RESPONSE and DECODE_COMMAND, total on all frames; DECODE_RESPONSE does not read bits 14:11. -/
def Obligations.FramesAreSplitIntoTheirFields : Prop :=
  ∀ (s : State) (f : Frame), s.seq = .idle →
    ∃ (a : Addr) (d : RegValue),
      exec (.responseFrame f) s = .next { s with out := .response (f.getLsbD 15) d } ∧
      exec (.decodeCommand f) s = .next { s with out := .command (f.getLsbD 15) a d } ∧
      a.toNat = f.toNat / 2 ^ 11 % 2 ^ 4 ∧ d.toNat = f.toNat % 2 ^ 11

/-- R125, R126: a frame's bytes, most significant first, and back. -/
def Obligations.FramesCrossAsBigEndianBytes : Prop :=
  (∀ (s : State) (f : Frame), s.seq = .idle →
    ∃ b0 b1 : Byte, exec (.toBytes f) s = .next { s with out := .bytes ⟨b0, b1⟩ } ∧
      b0.toNat = f.toNat / 256 ∧ b1.toNat = f.toNat % 256) ∧
  (∀ (s : State) (b0 b1 : Byte), s.seq = .idle →
    ∃ f : Frame, exec (.fromBytes b0 b1) s = .next { s with out := .frame f } ∧
      f.toNat = 256 * b0.toNat + b1.toNat)

/-- R128: the codec's laws. -/
def Obligations.CodecLaws : Prop :=
  (∀ (a a' : Addr) (v v' : RegValue),
    ∃ w r w' r' : Frame,
      encodeWrite a.toNat v.toNat = some w ∧ encodeRead a.toNat = some r ∧
      encodeWrite a'.toNat v'.toNat = some w' ∧ encodeRead a'.toNat = some r' ∧
      decodeCommand w = (false, a, v) ∧ decodeCommand r = (true, a, 0#11) ∧
      decodeResponse w = (false, v) ∧
      r.extractLsb' 0 11 = 0#11 ∧ r.getLsbD 15 = true ∧
      (w = w' → a = a' ∧ v = v') ∧ w ≠ r') ∧
  (∀ f : Frame, fromBytes (toBytes f) = f)

/-- The frame of the pure functions (R127; the output field is the model's, log 11): whatever the operands, only the
output changes, and, where a checked encoder rejects, the result (R244 (f)). -/
def Obligations.PureFunctionsChangeNothingElse : Prop :=
  ∀ (s t : State) (i : Instr), isPure i = true → exec i s = .next t →
    ∃ o : Output, t = { s with out := o } ∨
      (i.wellFormed s.cfg = false ∧ t = refusedState { s with out := o })

/-! ## The Register Map -/

/-- R172: EXTRACT, bit for bit, for every layout whose fields lie inside bits 10:0. -/
def Obligations.ExtractReadsTheFieldBits : Prop :=
  ∀ (s : State) (v : RegValue) (f : FieldName), s.seq = .idle → s.cfg.wf = true →
    ∃ x : RegValue, exec (.extract v f) s = .next { s with out := .fieldValue x } ∧
      ∀ j : Nat, x.getLsbD j =
        (decide (j < (s.cfg.layout.slot f).width) && v.getLsbD ((s.cfg.layout.slot f).lsb + j))

/-- R173: INSERT puts the code at the field and leaves every other bit unchanged. -/
def Obligations.InsertReplacesOnlyTheField : Prop :=
  ∀ (s : State) (v : RegValue) (f : FieldName) (code : RegValue), s.seq = .idle → s.cfg.wf = true →
    (Instr.insert v f code).wellFormed s.cfg = true →
    ∃ x : RegValue, exec (.insert v f code) s = .next { s with out := .regValue x } ∧
      ∀ j : Nat, x.getLsbD j =
        if (s.cfg.layout.slot f).lsb ≤ j ∧ j < (s.cfg.layout.slot f).lsb + (s.cfg.layout.slot f).width
        then code.getLsbD (j - (s.cfg.layout.slot f).lsb) else v.getLsbD j

/-- R174, R175: the status-register decoders at the default layout of R171. -/
def Obligations.StatusDecodersReadTheirBits : Prop :=
  ∀ (s : State) (v : RegValue), s.seq = .idle → s.cfg.layout = FieldLayout.default →
    (exec (.decodeSr1 v) s = .next { s with out := .record (.sr1
      { fault := v.getLsbD 10, gvddUv := v.getLsbD 9, pvddUv := v.getLsbD 8, otsd := v.getLsbD 7,
        otw := v.getLsbD 6, fethaOc := v.getLsbD 5, fetlaOc := v.getLsbD 4, fethbOc := v.getLsbD 3,
        fetlbOc := v.getLsbD 2, fethcOc := v.getLsbD 1, fetlcOc := v.getLsbD 0, rsvd := 0#11 }) }) ∧
    ∃ r : Sr2, exec (.decodeSr2 v) s = .next { s with out := .record (.sr2 r) } ∧
      r.gvddOv = v.getLsbD 7 ∧ r.deviceId.toNat = v.toNat % 16 ∧
      sr2RsvdHi r = v.extractLsb' 8 3 ∧ sr2RsvdMid r = v.extractLsb' 4 3

/-- R176, R177: the control-register decoders at the default layout of R171. -/
def Obligations.ControlDecodersReadTheirBits : Prop :=
  ∀ (s : State) (v : RegValue), s.seq = .idle → s.cfg.layout = FieldLayout.default →
    (∃ r : Cr1, exec (.decodeCr1 v) s = .next { s with out := .record (.cr1 r) } ∧
      r.ocAdjSet.toNat = v.toNat / 64 ∧ r.ocpMode.toNat = v.toNat / 16 % 4 ∧ r.pwmMode.toNat = v.toNat / 8 % 2 ∧
      r.gateReset.toNat = v.toNat / 4 % 2 ∧ r.gateCurrent.toNat = v.toNat % 4 ∧ r.rsvd = 0#11) ∧
    ∃ r : Cr2, exec (.decodeCr2 v) s = .next { s with out := .record (.cr2 r) } ∧
      r.ocToff.toNat = v.toNat / 64 % 2 ∧ r.dcCalCh2.toNat = v.toNat / 32 % 2 ∧
      r.dcCalCh1.toNat = v.toNat / 16 % 2 ∧ r.gain.toNat = v.toNat / 4 % 4 ∧ r.octwMode.toNat = v.toNat % 4 ∧
      cr2Rsvd r = v.extractLsb' 7 4

/-- R174 to R178 for every layout that the rules speak of: a decoder gives EXTRACT of each field of its register and the
reserved bits as they are, and re-encoding that record gives the value back, bit for bit. -/
def Obligations.ReencodingKeepsEveryBit : Prop :=
  ∀ (s : State) (v : RegValue), s.seq = .idle → s.cfg.wf = true →
    ∀ p ∈ [(Instr.decodeSr1 v, Reg.sr1), (Instr.decodeSr2 v, Reg.sr2), (Instr.decodeCr1 v, Reg.cr1),
           (Instr.decodeCr2 v, Reg.cr2)],
      ∃ r : RegRecord, exec p.1 s = .next { s with out := .record r } ∧ recordReg r = p.2 ∧
        (∀ m ∈ recordMembers r, m.2 = extractField s.cfg.layout v m.1) ∧
        (∀ f : FieldName, f.reg = p.2 → f ∈ (recordMembers r).map (·.1)) ∧
        recordRsvd r = reservedBits s.cfg.layout p.2 v ∧
        exec (.encodeR r) s = .next { s with out := .regValue v }

/-- R178: ENCODE_R places every member of a record whose members fit their fields, and keeps the reserved bits; bits of
the record's `rsvd` at places that a field covers are ignored, which is the model's choice (log 27). -/
def Obligations.EncodeRecordPlacesEveryMember : Prop :=
  ∀ (s : State) (r : RegRecord), s.seq = .idle → s.cfg.wf = true →
    (∀ m ∈ recordMembers r, m.2.toNat < 2 ^ (s.cfg.layout.slot m.1).width) →
    ∃ x : RegValue, exec (.encodeR r) s = .next { s with out := .regValue x } ∧
      (∀ m ∈ recordMembers r, extractField s.cfg.layout x m.1 = m.2) ∧
      reservedBits s.cfg.layout (recordReg r) x = reservedBits s.cfg.layout (recordReg r) (recordRsvd r)

/-- R179, R180: at every layout the aggregate has the twelve flags and the id of the decoders' records, as read, and the
packed form has v1, GVDD_OV and DEVICE_ID; the reserved bits of SR2 are dropped. Nothing is checked: it holds for all v1
and v2. The last clause is at the default layout of R171 (log 4). -/
def Obligations.FaultStatusCollectsBothRegisters : Prop :=
  ∀ (s : State) (v1 v2 : RegValue), s.seq = .idle →
    ∃ (fs : FaultStatus) (p : BitVec 16) (r1 : Sr1) (r2 : Sr2),
      exec (.faultStatus v1 v2) s = .next { s with out := .faultStatus fs p } ∧
      exec (.decodeSr1 v1) s = .next { s with out := .record (.sr1 r1) } ∧
      exec (.decodeSr2 v2) s = .next { s with out := .record (.sr2 r2) } ∧
      fs = { fault := r1.fault, gvddUv := r1.gvddUv, pvddUv := r1.pvddUv, otsd := r1.otsd, otw := r1.otw,
             fethaOc := r1.fethaOc, fetlaOc := r1.fetlaOc, fethbOc := r1.fethbOc, fetlbOc := r1.fetlbOc,
             fethcOc := r1.fethcOc, fetlcOc := r1.fetlcOc, gvddOv := r2.gvddOv, deviceId := r2.deviceId } ∧
      p.extractLsb' 0 11 = v1 ∧ p.getLsbD 11 = (extractField s.cfg.layout v2 .gvddOv).getLsbD 0 ∧
      p.extractLsb' 12 4 = (extractField s.cfg.layout v2 .deviceId).extractLsb' 0 4 ∧
      (s.cfg.layout = FieldLayout.default →
        p.getLsbD 11 = v2.getLsbD 7 ∧ p.extractLsb' 12 4 = v2.extractLsb' 0 4 ∧
        fs = { fault := v1.getLsbD 10, gvddUv := v1.getLsbD 9, pvddUv := v1.getLsbD 8, otsd := v1.getLsbD 7,
               otw := v1.getLsbD 6, fethaOc := v1.getLsbD 5, fetlaOc := v1.getLsbD 4, fethbOc := v1.getLsbD 3,
               fetlbOc := v1.getLsbD 2, fethcOc := v1.getLsbD 1, fetlcOc := v1.getLsbD 0,
               gvddOv := v2.getLsbD 7, deviceId := (v2.extractLsb' 0 4).setWidth 11 })

/-- The default parameters of 00_scope.md section 4: WRITE_FE_CHECK and REG_ADDR (R70, R142); a layout the rules speak of,
with the masks of the table (R170, R171); and RESERVED_CODES: code 3 of GATE_CURRENT and of OCTW_MODE is not admitted, and
every other code that fits is (R208, R210). -/
def Obligations.DefaultParametersAreTheTable : Prop :=
  Config.default.writeFeCheck = false ∧
  Config.default.regAddr = { sr1 := 0#4, sr2 := 1#4, cr1 := 2#4, cr2 := 3#4 } ∧
  Config.default.layout = FieldLayout.default ∧ FieldLayout.default.wf = true ∧
  FieldName.all.map (fun f => (FieldLayout.default.slot f).mask) =
    [0x400, 0x200, 0x100, 0x080, 0x040, 0x020, 0x010, 0x008, 0x004, 0x002, 0x001, 0x080, 0x00F,
     0x7C0, 0x030, 0x008, 0x004, 0x003, 0x040, 0x020, 0x010, 0x00C, 0x003] ∧
  ∀ (f : FieldName) (code : RegValue), f.admits Config.default code = true ↔
    (code.toNat < 2 ^ (FieldLayout.default.slot f).width ∧
      ¬((f = .gateCurrent ∨ f = .octwMode) ∧ code = 3#11))

/-- R99, R173, R181: a code that fits lands inside its field; inserting it gives the field that code and every other
field of the register its old code. -/
def Obligations.InsertIsolatesTheField : Prop :=
  ∀ (c : Config) (v code : RegValue) (f : FieldName), c.wf = true → f.admits c code = true →
    placeCode c.layout f code &&& ~~~(c.layout.slot f).mask = 0#11 ∧
    extractField c.layout (insertField c.layout v f code) f = code ∧
    ∀ g : FieldName, g ≠ f → g.reg = f.reg →
      extractField c.layout (insertField c.layout v f code) g = extractField c.layout v g

/-! ## The Register Access Engine and the raw operations -/

/-- R141 (and R142, R150), as RAW_WRITE uses it: a logical write is one exchange of the write frame; it ends OK whatever
the reply holds, but for R142's test of bit 15; a failed exchange ends it with TRANSPORT and the adapter's cause. -/
def Obligations.WriteSendsOneFrame : Prop :=
  ∀ (s : State) (a : Addr) (v : RegValue), s.seq = .idle →
    (∀ (rx : Frame) (e : Env), Completes s.env [0#1 ++ a ++ v] [rx] e →
      ∃ t, exec (.rawWrite a 0 v) s = .next t ∧
        Ended s t (if s.cfg.writeFeCheck && rx.getLsbD 15 then .frameError else .ok) 0#16 e
          [.completed (0#1 ++ a ++ v) rx]) ∧
    (∀ (c : TransportCause) (e : Env), Fails s.env (0#1 ++ a ++ v) c e →
      ∃ t, exec (.rawWrite a 0 v) s = .next t ∧ t.res.cause = c ∧
        Ended s t .transport 0#16 e [.failed (0#1 ++ a ++ v) c])

/-- R143, R145, as RAW_READ uses ReadRegister (R149): a logical read is two exchanges of the same read frame; it ends OK
with bits 10:0 of the second reply, which img then holds, or with FRAME_ERROR and data 0 where bit 15 of that reply is
set; a failed exchange ends it at once with TRANSPORT and the adapter's cause. `IsRead` says each of these cases. -/
def Obligations.ReadReturnsTheSecondReply : Prop :=
  ∀ (s : State) (a : Addr), s.seq = .idle → IsRead s (.rawRead a 0 0) a fun v => v.setWidth 16

/-- R145, R183, R243: a frame error in the second reply of the first read ends every operation that begins with a read:
FRAME_ERROR, data 0, exactly those two frames sent, whatever the data bits were. -/
def Obligations.FlaggedReadEndsTheOperation : Prop :=
  ∀ (s : State) (i : Instr) (a : Addr) (rx1 rx2 : Frame) (e : Env), s.seq = .idle →
    i.wellFormed s.cfg = true → readsFirst i = true → firstRegister s.cfg i = some a →
    Completes s.env (readFrames a) [rx1, rx2] e → rx2.getLsbD 15 = true →
    ∃ t, exec i s = .next t ∧ Ended s t .frameError 0#16 e (completedTrace (readFrames a) [rx1, rx2])

/-- R146, R241, R276: when the first exchange fails, the operation ends at once with TRANSPORT, the adapter's cause
unchanged and data 0; no further frame is sent. -/
def Obligations.FailedFirstExchangeEndsTheOperation : Prop :=
  ∀ (s : State) (i : Instr) (a : Addr) (f : Frame) (c : TransportCause) (e : Env), s.seq = .idle →
    i.wellFormed s.cfg = true → firstRegister s.cfg i = some a →
    (readsFirst i = true → f = packRead a) →
    (∀ b v, i = .rawWrite b 0 v ∨ i = .writeRegister b v → f = packWrite b v) →
    Fails s.env f c e →
    ∃ t, exec i s = .next t ∧ t.res.cause = c ∧ Ended s t .transport 0#16 e [.failed f c]

/-- R146, R245 (3): when the second exchange of a read fails, the operation ends with TRANSPORT after that frame. -/
def Obligations.FailedSecondExchangeEndsTheRead : Prop :=
  ∀ (s : State) (i : Instr) (a : Addr) (rx1 : Frame) (c : TransportCause) (e1 e2 : Env), s.seq = .idle →
    i.wellFormed s.cfg = true → readsFirst i = true → firstRegister s.cfg i = some a →
    Completes s.env [packRead a] [rx1] e1 → Fails e1 (packRead a) c e2 →
    ∃ t, exec i s = .next t ∧ t.res.cause = c ∧
      Ended s t .transport 0#16 e2 [.completed (packRead a) rx1, .failed (packRead a) c]

/-- R181, R182, R184: RAW_MODIFY is two read frames and one write frame, always sent, of the value read with the bits
under the mask replaced; it ends OK with data 0, or with FRAME_ERROR where R142 says so. -/
def Obligations.ModifyWritesTheMaskedImage : Prop :=
  ∀ (s : State) (a : Addr) (mask bits new : RegValue) (rx1 rx2 rx3 : Frame) (e : Env), s.seq = .idle →
    bits &&& ~~~mask = 0#11 → rx2.getLsbD 15 = false →
    new = ((rx2.extractLsb' 0 11) &&& ~~~mask) ||| (bits &&& mask) →
    Completes s.env [packRead a, packRead a, packWrite a new] [rx1, rx2, rx3] e →
    ∃ t, exec (.rawModify a mask bits) s = .next t ∧ t.img = new ∧
      Ended s t (if s.cfg.writeFeCheck && rx3.getLsbD 15 then .frameError else .ok) 0#16 e
        (completedTrace [packRead a, packRead a, packWrite a new] [rx1, rx2, rx3])

/-- The engine sequences used alone (R141, R143, R181; that they are operations that write the result is the model's
choice, log 12): the same frames as inside an operation, OK with the value read or with 0. ModifyRegister checks no
operand: only the bits under the mask are taken. -/
def Obligations.EngineSequencesUsedAlone : Prop :=
  ∀ (s : State) (a : Addr), s.seq = .idle →
    (∀ (v : RegValue) (rx : Frame) (e : Env), Completes s.env [packWrite a v] [rx] e →
      ∃ t, exec (.writeRegister a v) s = .next t ∧
        Ended s t (if s.cfg.writeFeCheck && rx.getLsbD 15 then .frameError else .ok) 0#16 e
          [.completed (packWrite a v) rx]) ∧
    IsRead s (.readRegister a) a (fun v => v.setWidth 16) ∧
    (∀ (mask bits new : RegValue) (rx1 rx2 rx3 : Frame) (e : Env), rx2.getLsbD 15 = false →
      new = modifyImage (rx2.extractLsb' 0 11) mask bits →
      Completes s.env (readFrames a ++ [packWrite a new]) [rx1, rx2, rx3] e →
      ∃ t, exec (.modifyRegister a mask bits) s = .next t ∧ t.img = new ∧
        Ended s t (if s.cfg.writeFeCheck && rx3.getLsbD 15 then .frameError else .ok) 0#16 e
          (completedTrace (readFrames a ++ [packWrite a new]) [rx1, rx2, rx3]))

/-- R181: the laws of a read-modify-write's image: isolation and idempotence. -/
def Obligations.ModifyIsIsolatedAndIdempotent : Prop :=
  ∀ old mask bits : RegValue,
    modifyImage old mask bits &&& ~~~mask = old &&& ~~~mask ∧
    modifyImage (modifyImage old mask bits) mask bits = modifyImage old mask bits ∧
    modifyImage old 0#11 0#11 = old ∧ modifyImage old 0x7FF#11 bits = bits

/-- R246: when the write of a read-modify-write fails, the two read frames and the write frame have been sent. -/
def Obligations.FailedWriteBackIsReported : Prop :=
  ∀ (s : State) (a : Addr) (mask bits new : RegValue) (rx1 rx2 : Frame) (c : TransportCause) (e1 e2 : Env),
    s.seq = .idle → bits &&& ~~~mask = 0#11 → rx2.getLsbD 15 = false →
    new = modifyImage (rx2.extractLsb' 0 11) mask bits →
    Completes s.env (readFrames a) [rx1, rx2] e1 → Fails e1 (packWrite a new) c e2 →
    ∃ t, exec (.rawModify a mask bits) s = .next t ∧ t.res.cause = c ∧
      Ended s t .transport 0#16 e2
        (completedTrace (readFrames a) [rx1, rx2] ++ [.failed (packWrite a new) c])

/-! ## The Command Layer -/

/-- R201: HAS_FAULT is one logical read of SR1 and gives FAULT alone (bit 10, so 0 or 1, at the default layout: R171,
log 4); with an operand field that is not zero it is refused, with no exchange (R215, R100; log 9). -/
def Obligations.HasFaultReportsTheMasterFlag : Prop :=
  ∀ s : State, s.seq = .idle →
    IsRead s (.hasFault 0 0 0) s.cfg.regAddr.sr1 (fun v => (extractField s.cfg.layout v .fault).setWidth 16) ∧
    (∀ (addr : Addr) (a b : RegValue), addr ≠ 0#4 ∨ a ≠ 0#11 ∨ b ≠ 0#11 →
      exec (.hasFault addr a b) s = .next (refusedState s)) ∧
    (s.cfg.layout = FieldLayout.default → ∀ v : RegValue,
      (extractField s.cfg.layout v .fault).setWidth 16 = if v.getLsbD 10 then 1#16 else 0#16)

/-- R202: GET_DEVICE_ID is one logical read of SR2 and gives DEVICE_ID as read (bits 3:0 at the default layout: R171,
log 4); with an operand field that is not zero it is refused, with no exchange (R215, R100; log 9). -/
def Obligations.GetDeviceIdReportsTheField : Prop :=
  ∀ s : State, s.seq = .idle →
    IsRead s (.getDeviceId 0 0 0) s.cfg.regAddr.sr2 (fun v => (extractField s.cfg.layout v .deviceId).setWidth 16) ∧
    (∀ (addr : Addr) (a b : RegValue), addr ≠ 0#4 ∨ a ≠ 0#11 ∨ b ≠ 0#11 →
      exec (.getDeviceId addr a b) s = .next (refusedState s)) ∧
    (s.cfg.layout = FieldLayout.default → ∀ v : RegValue,
      (extractField s.cfg.layout v .deviceId).setWidth 16 = (v.extractLsb' 0 4).setWidth 16)

/-- R203, R179: GET_FAULT_STATUS reads SR1, then SR2, two exchanges each, and gives both packed. -/
def Obligations.GetFaultStatusReadsBothRegisters : Prop :=
  ∀ (s : State) (rx1 rx2 rx3 rx4 : Frame) (e : Env), s.seq = .idle →
    Completes s.env (readFrames s.cfg.regAddr.sr1 ++ readFrames s.cfg.regAddr.sr2) [rx1, rx2, rx3, rx4] e →
    rx2.getLsbD 15 = false → rx4.getLsbD 15 = false →
    ∃ t, exec (.getFaultStatus 0 0 0) s = .next t ∧
      Ended s t .ok (packFaultStatus s.cfg.layout (rx2.extractLsb' 0 11) (rx4.extractLsb' 0 11)) e
        (completedTrace (readFrames s.cfg.regAddr.sr1 ++ readFrames s.cfg.regAddr.sr2) [rx1, rx2, rx3, rx4])

/-- R203, R245 (5), R214: an error of the SR2 read, at either of its exchanges, ends GET_FAULT_STATUS with that error, and
no data of the SR1 read is kept. (An error of the SR1 read: FlaggedReadEndsTheOperation,
FailedFirstExchangeEndsTheOperation and FailedSecondExchangeEndsTheRead.) -/
def Obligations.SecondStatusReadErrorEndsTheQuery : Prop :=
  ∀ (s : State) (rx1 rx2 : Frame), s.seq = .idle → rx2.getLsbD 15 = false →
    (∀ (c : TransportCause) (e1 e2 : Env), Completes s.env (readFrames s.cfg.regAddr.sr1) [rx1, rx2] e1 →
      Fails e1 (packRead s.cfg.regAddr.sr2) c e2 →
      ∃ t, exec (.getFaultStatus 0 0 0) s = .next t ∧ t.res.cause = c ∧
        Ended s t .transport 0#16 e2
          (completedTrace (readFrames s.cfg.regAddr.sr1) [rx1, rx2] ++ [.failed (packRead s.cfg.regAddr.sr2) c])) ∧
    (∀ (rx3 : Frame) (e1 : Env),
      Completes s.env (readFrames s.cfg.regAddr.sr1 ++ [packRead s.cfg.regAddr.sr2]) [rx1, rx2, rx3] e1 →
      (∀ (rx4 : Frame) (e2 : Env), Completes e1 [packRead s.cfg.regAddr.sr2] [rx4] e2 → rx4.getLsbD 15 = true →
        ∃ t, exec (.getFaultStatus 0 0 0) s = .next t ∧
          Ended s t .frameError 0#16 e2
            (completedTrace (readFrames s.cfg.regAddr.sr1 ++ readFrames s.cfg.regAddr.sr2) [rx1, rx2, rx3, rx4])) ∧
      (∀ (c : TransportCause) (e2 : Env), Fails e1 (packRead s.cfg.regAddr.sr2) c e2 →
        ∃ t, exec (.getFaultStatus 0 0 0) s = .next t ∧ t.res.cause = c ∧
          Ended s t .transport 0#16 e2
            (completedTrace (readFrames s.cfg.regAddr.sr1 ++ [packRead s.cfg.regAddr.sr2]) [rx1, rx2, rx3] ++
              [.failed (packRead s.cfg.regAddr.sr2) c])))

/-- R200, R204 to R213: each setter reads its field's register and writes it back with the field replaced by the code
(INSERT), in exactly three frames; OK with data 0, or FRAME_ERROR where R142 says so. -/
def Obligations.SettersInsertTheirCode : Prop :=
  ∀ p ∈ [(Instr.setOcAdj, FieldName.ocAdjSet, Reg.cr1), (Instr.setOcpMode, FieldName.ocpMode, Reg.cr1),
         (Instr.setPwmMode, FieldName.pwmMode, Reg.cr1), (Instr.setGateReset, FieldName.gateReset, Reg.cr1),
         (Instr.setGateCurrent, FieldName.gateCurrent, Reg.cr1), (Instr.setGain, FieldName.gain, Reg.cr2),
         (Instr.setOctwMode, FieldName.octwMode, Reg.cr2), (Instr.setDcCalCh1, FieldName.dcCalCh1, Reg.cr2),
         (Instr.setDcCalCh2, FieldName.dcCalCh2, Reg.cr2), (Instr.setOcToff, FieldName.ocToff, Reg.cr2)],
    ∀ (s : State) (code new : RegValue) (rx1 rx2 rx3 : Frame) (e : Env), s.seq = .idle →
      p.2.1.admits s.cfg code = true → rx2.getLsbD 15 = false →
      new = insertField s.cfg.layout (rx2.extractLsb' 0 11) p.2.1 code →
      Completes s.env
        (readFrames (s.cfg.regAddr.of p.2.2) ++ [packWrite (s.cfg.regAddr.of p.2.2) new]) [rx1, rx2, rx3] e →
      ∃ t, exec (p.1 0 0 code) s = .next t ∧
        Ended s t (if s.cfg.writeFeCheck && rx3.getLsbD 15 then .frameError else .ok) 0#16 e
          (completedTrace (readFrames (s.cfg.regAddr.of p.2.2) ++ [packWrite (s.cfg.regAddr.of p.2.2) new])
            [rx1, rx2, rx3])

/-- R200, R215, R244 (b), (d), (e): a setter whose ADDR or A is not zero, whose code does not fit its field, or whose
code is reserved, ends with NotSupported; only the result changes. -/
def Obligations.SettersRefuseBadOperands : Prop :=
  ∀ p ∈ setters, ∀ (s : State) (addr : Addr) (a code : RegValue), s.seq = .idle →
    addr ≠ 0#4 ∨ a ≠ 0#11 ∨ 2 ^ (s.cfg.layout.slot p.2).width ≤ code.toNat ∨ (p.2, code) ∈ s.cfg.reservedCodes →
    exec (p.1 addr a code) s = .next (refusedState s)

/-- The Command Layer on the reference device (R80 to R83, derived): a setter leaves its register with the field replaced
and every other register as it was. -/
def Obligations.SettersChangeOneRegister : Prop :=
  ∀ p ∈ setters, ∀ (s : State) (code : RegValue), s.seq = .idle → OnReference s → p.2.admits s.cfg code = true →
    1 < (s.cfg.regAddr.of p.2.reg).toNat →
    ∃ t, exec (p.1 0 0 code) s = .next t ∧ t.res.valid = true ∧ t.res.status = .ok ∧ OnReference t ∧
      t.env.dev.regs = s.env.dev.regs.set (s.cfg.regAddr.of p.2.reg).toNat
        (insertField s.cfg.layout (s.env.dev.regs.get (s.cfg.regAddr.of p.2.reg).toFin) p.2 code)
        (s.cfg.regAddr.of p.2.reg).isLt

/-- The frame of the queries and of RAW_READ and ReadRegister (43_command_layer.md §2, "perform reads only"): every frame they send
is a read frame, and on the reference device every register stays as it was. -/
def Obligations.QueriesOnlyRead : Prop :=
  ∀ (s t : State) (i : Instr),
    (∃ (addr : Addr) (a b : RegValue), i ∈ [.rawRead addr a b, .hasFault addr a b, .getDeviceId addr a b,
      .getFaultStatus addr a b, .readRegister addr]) →
    s.seq = .idle → exec i s = .next t →
    (∃ l, t.trace = s.trace ++ l ∧ ∀ x ∈ l, isReadFrame (sent x) = true) ∧
    (OnReference s → t.env.dev.regs = s.env.dev.regs)

/-- The frame of the writing operations on the reference device (R83, derived): only the addressed register can change. -/
def Obligations.RawWritesTouchOneRegister : Prop :=
  ∀ (s t : State) (i : Instr) (addr : Addr),
    (∃ a b : RegValue, i ∈ [.rawWrite addr a b, .rawModify addr a b, .writeRegister addr b,
      .modifyRegister addr a b]) →
    s.seq = .idle → OnReference s → exec i s = .next t →
    (∀ x : Addr, x ≠ addr → t.env.dev.regs.get x.toFin = s.env.dev.regs.get x.toFin) ∧
    (addr = 0#4 ∨ addr = 1#4 → t.env.dev.regs = s.env.dev.regs)

/-- A write, then a read, on the reference device (R278, 95 P1, derived): the read gives the value written. -/
def Obligations.ReadAfterWriteGivesTheValue : Prop :=
  ∀ (s : State) (addr : Addr) (v : RegValue), s.seq = .idle → OnReference s → s.cfg.writeFeCheck = false →
    1 < addr.toNat →
    ∃ t u, exec (.rawWrite addr 0 v) s = .next t ∧ exec (.rawRead addr 0 0) t = .next u ∧
      u.res.valid = true ∧ u.res.status = .ok ∧ u.res.data = v.setWidth 16

/-- R81 to R83: one exchange with the reference device. -/
def Obligations.ReferenceDeviceIsOneFrameLate : Prop :=
  ∀ (e : Env) (a : Addr) (v : RegValue), e.kind = .reference → e.script = [] →
    e.exchange (toBytes (packRead a)) =
      (.reply (toBytes e.dev.pending),
       { e with dev := { e.dev with pending := (e.dev.regs.get a.toFin).setWidth 16 } }) ∧
    e.exchange (toBytes (packWrite a v)) =
      (.reply (toBytes e.dev.pending),
       { e with dev := { e.dev with
          regs := if a.toNat < 2 then e.dev.regs else e.dev.regs.set a.toNat v a.isLt
          pending := e.dev.wReply } })

/-! ## Errors and refusals -/

/-- R100: a word with RSV = 1 or an unassigned OP is refused at once; only the result changes. -/
def Obligations.UnassignedWordsAreRefused : Prop :=
  ∀ (s : State) (opLow : BitVec 4) (addr : Addr) (a b : RegValue) (rest : BitVec 31), s.seq = .idle →
    exec (.unassigned opLow addr a b) s = .next (refusedState s) ∧ exec (.rsvSet rest) s = .next (refusedState s)

/-- R98, R244, R245 (1): a request is refused, with nothing changed but its result, exactly when its operands are not
what R98 asks, whatever the environment would have done; a request that is not refused never ends NOT_SUPPORTED. -/
def Obligations.RefusalIsDecidedByTheOperands : Prop :=
  ∀ (s : State) (i : Instr), isRequest i = true → s.seq = .idle →
    (i.wellFormed s.cfg = false → exec i s = .next (refusedState s)) ∧
    (i.wellFormed s.cfg = true →
      ∃ t, exec i s = .next t ∧ (t.res.valid = true → t.res.status ≠ .notSupported))

/-- R102, R243: the status codes, and the error entry. -/
def Obligations.ErrorEntryWritesTheResult : Prop :=
  (Status.ok.code = 0#2 ∧ Status.transport.code = 1#2 ∧ Status.frameError.code = 2#2 ∧
    Status.notSupported.code = 3#2) ∧
  ∀ (s : State) (c : TransportCause),
    s.raise (.transport c) =
      { s with seq := .idle, res := ⟨true, .transport, 0#16, c⟩, freeCount := s.freeCount + 1 } ∧
    (∃ c1, s.raise .frameError =
      { s with seq := .idle, res := ⟨true, .frameError, 0#16, c1⟩, freeCount := s.freeCount + 1 }) ∧
    (∃ c2, s.raise .notSupported =
      { s with seq := .idle, res := ⟨true, .notSupported, 0#16, c2⟩, freeCount := s.freeCount + 1 })

/-- R146, R241: in an operation, from its acceptance on and in every later step of it, a failed exchange is the last one;
then the operation has ended, with TRANSPORT and the adapter's cause, unchanged; and only then has it ended so. -/
def Obligations.NothingFollowsAFailedExchange : Prop :=
  ∀ s t : State,
    ((∃ i, (operationOf i).isSome = true ∧ s.seq = .idle ∧ exec i s = .next t) ∨
      (∃ op k, s.seq = .busy op k ∧ s.inputs.head? ≠ some .reset ∧ step s = .next t)) →
    ∃ l, t.trace = s.trace ++ l ∧
      (∀ x ∈ l.dropLast, ∃ tx rx, x = .completed tx rx) ∧
      (∀ tx c, l.getLast? = some (.failed tx c) → t.seq = .idle ∧ t.res = ⟨true, .transport, 0#16, c⟩) ∧
      (t.seq = .idle → t.res.status = .transport → ∃ tx, l.getLast? = some (.failed tx t.res.cause))

/-- R282: the number of frames of each operation: exact on success; 0 for NotSupported, the refused words included; at
least one on any other error and never more than on success; with a FRAME_ERROR, those of the read that was flagged (2),
or all of them. An operation that waits is BUSY with the count so far, and a step that goes on with it keeps to the same
counts. (The engine sequences used alone have no row in R282: log 12; what one step does: log 1.) -/
def Obligations.FrameCounts : Prop :=
  (∀ (s t : State) (i : Instr), isPure i = false → s.seq = .idle → exec i s = .next t →
    ∃ l, t.trace = s.trace ++ l ∧ l.length ≤ framesOnSuccess i ∧ l.length ≤ 4 ∧
      (∀ op k, t.seq = .busy op k → k = l.length ∧ operationOf i = some op) ∧
      (t.res.valid = true → t.res.status = .ok → l.length = framesOnSuccess i) ∧
      (t.res.valid = true → t.res.status = .notSupported → l = []) ∧
      (t.res.valid = true → t.res.status = .transport → l ≠ []) ∧
      (t.res.valid = true → t.res.status = .frameError → l.length = 2 ∨ l.length = framesOnSuccess i)) ∧
  (∀ (s t : State) (i : Instr) (op : Operation) (k : Nat), operationOf i = some op → s.seq = .busy op k →
    k < framesOnSuccess i → s.inputs.head? ≠ some .reset → step s = .next t →
    ∃ l, t.trace = s.trace ++ l ∧ k + l.length ≤ framesOnSuccess i ∧
      (∀ op' k', t.seq = .busy op' k' → k' = k + l.length ∧ op' = op) ∧
      (t.seq = .idle → t.res.status = .ok → k + l.length = framesOnSuccess i) ∧
      (t.seq = .idle → t.res.status ≠ .notSupported ∧ l ≠ []) ∧
      (t.seq = .idle → t.res.status = .frameError → k + l.length = 2 ∨ k + l.length = framesOnSuccess i))

/-- The frame of every operation (R25, R34, R21): an operation changes neither the parameters, nor the bus ownership,
nor what the host has placed, nor the output of a pure function. -/
def Obligations.OperationsKeepTheContext : Prop :=
  ∀ (s t : State) (i : Instr), isPure i = false → exec i s = .next t → SameContext s t

/-- R22: in BUSY the block accepts no request. -/
def Obligations.BusyBlockAcceptsNothing : Prop :=
  ∀ (s : State) (i : Instr) (op : Operation) (k : Nat), s.seq = .busy op k → exec i s = .next s

/-- R23, R25, R26 (a) and (b), R140, R250: an accepted operation whose first exchange has not ended is BUSY(op, 0),
with the request latched and no valid result, and it waits; one whose second exchange has not ended is BUSY(op, 1). -/
def Obligations.OperationsWaitForTheTransport : Prop :=
  (∀ (s : State) (i : Instr) (op : Operation) (a : Addr) (f : Frame) (e : Env), s.seq = .idle →
    i.wellFormed s.cfg = true → operationOf i = some op → firstRegister s.cfg i = some a →
    (readsFirst i = true → f = packRead a) →
    (∀ b v, i = .rawWrite b 0 v ∨ i = .writeRegister b v → f = packWrite b v) →
    Stalls s.env f e →
    ∃ t, exec i s = .next t ∧ t.seq = .busy op 0 ∧ t.res.valid = false ∧ t.env = e ∧ t.trace = s.trace ∧
      (∀ w : ReqWord, encode i = some (.request w) → t.req = ⟨reqOp w, reqAddr w, reqA w, reqB w⟩)) ∧
  (∀ (s : State) (i : Instr) (op : Operation) (a : Addr) (rx1 : Frame) (e1 e2 : Env), s.seq = .idle →
    i.wellFormed s.cfg = true → operationOf i = some op → readsFirst i = true →
    firstRegister s.cfg i = some a → Completes s.env [packRead a] [rx1] e1 → Stalls e1 (packRead a) e2 →
    ∃ t, exec i s = .next t ∧ t.seq = .busy op 1 ∧ t.res.valid = false ∧ t.env = e2 ∧
      t.trace = s.trace ++ [.completed (packRead a) rx1])

/-- The frame of the working registers (R24): only a read writes img, and only GET_FAULT_STATUS writes s1. -/
def Obligations.WorkingRegistersAreKept : Prop :=
  ∀ (s t : State) (i : Instr), exec i s = .next t →
    (readsFirst i = false → t.img = s.img) ∧
    ((∀ addr a b, i ≠ .getFaultStatus addr a b) → t.s1 = s.s1) ∧
    (operationOf i = none → t.req = s.req ∧ t.env = s.env ∧ t.trace = s.trace)

/-- R270, U18, U19: what the host may not read faults, and what it may read is the result register. -/
def Obligations.ResultReadsFaultWhenUnspecified : Prop :=
  ∀ s : State,
    (s.res.valid = false → s.readStatus = .error .resultNotValid ∧ s.readData = .error .resultNotValid ∧
      s.readCause = .error .resultNotValid) ∧
    (s.res.valid = true → s.readStatus = .ok s.res.status ∧ s.readData = .ok s.res.data ∧
      (s.res.status = .transport → s.readCause = .ok s.res.cause) ∧
      (s.res.status ≠ .transport → s.readCause = .error .causeNotTransport))

/-! ## Reset and steps -/

/-- R270: the state after reset, with any parameters and with the default ones, as far as the spec gives it. -/
def Obligations.ResetState : Prop :=
  (∀ c : Config, (State.resetWith c).seq = .idle ∧ (State.resetWith c).res.valid = false ∧
    (State.resetWith c).ownsBus = true ∧ (State.resetWith c).cfg = c ∧ (State.resetWith c).trace = []) ∧
  State.reset = State.resetWith Config.default

/-- R271: a reset of the block, in IDLE or in BUSY, ends in IDLE with no valid result, sends no frame and leaves the
device alone. -/
def Obligations.BlockResetSendsNothing : Prop :=
  ∀ (s : State) (rest : List Input), s.inputs = .reset :: rest →
    ∃ t, step s = .next t ∧ t.seq = .idle ∧ t.res.valid = false ∧ t.ownsBus = true ∧ t.env = s.env ∧
      t.trace = s.trace ∧ t.cfg = s.cfg ∧ t.inputs = rest

/-- A step runs the decoded instruction (R22, R72, R96): in IDLE the next input is taken, and the step is exec of it on
the state without that input. -/
def Obligations.StepRunsTheDecodedInstruction : Prop :=
  ∀ (s : State) (w : Encoded) (i : Instr) (rest : List Input), s.seq = .idle →
    (s.inputs = .word w :: rest → decode w = .ok i → step s = exec i { s with inputs := rest }) ∧
    (s.inputs = .use i :: rest → step s = exec i { s with inputs := rest })

/-- R22, R248, R253: without a request nothing happens in IDLE; in BUSY a step goes on with the operation in progress
and takes no request. -/
def Obligations.StepWithoutARequest : Prop :=
  (∀ s : State, s.seq = .idle → s.inputs = [] → step s = .next s) ∧
  (∀ (s : State) (op : Operation) (k : Nat), s.seq = .busy op k → s.inputs.head? ≠ some .reset →
    step s = .next s.resume ∧ s.resume.inputs = s.inputs)

/-- R34: no step changes the parameters. R246, R26: no step takes a frame back: the trace only grows, by at most four
exchanges a step (what one step does: log 1). -/
def Obligations.StepsKeepParametersAndTrace : Prop :=
  ∀ s t : State, step s = .next t → t.cfg = s.cfg ∧ ∃ l, t.trace = s.trace ++ l ∧ l.length ≤ 4

/-- The invariant holds after reset, with any parameters whose layout the rules speak of. -/
def Obligations.ResetMeetsTheInvariant : Prop :=
  Inv State.reset ∧ ∀ c : Config, c.wf = true → Inv (State.resetWith c)

/-- The invariant is kept by every step, from every state that meets it (R21, R22, R25, R101, R103 (d)). -/
def Obligations.StepKeepsTheInvariant : Prop :=
  ∀ s t : State, Inv s → step s = .next t → Inv t

/-- R147, R283: waiting changes nothing. With the scripted waits left in, the operation in progress reaches, in some
number of resumptions, the state that it reaches at once without them: same frames, same result. -/
def Obligations.WaitingChangesNothing : Prop :=
  ∀ s : State, ∃ n : Nat, withoutWaits (resumeTimes n s) = (withoutWaits s).resume

/-- R20, R76: an operation starts from the same block state whatever came before it: two idle states with the same
parameters and the same environment give the same exchanges, the same environment and the same result. -/
def Obligations.OperationsForgetTheirPast : Prop :=
  ∀ (s s' : State) (i : Instr), (operationOf i).isSome = true → s.seq = .idle → s'.seq = .idle →
    s'.cfg = s.cfg → s'.env = s.env →
    ∃ t t' l, exec i s = .next t ∧ exec i s' = .next t' ∧ t.trace = s.trace ++ l ∧ t'.trace = s'.trace ++ l ∧
      t'.env = t.env ∧ t'.seq = t.seq ∧ SameResult t.res t'.res

/-- R144: no value of the first reply of a read changes anything but the record of that exchange: of the read an
operation begins with; of a read that a block in BUSY goes on to, at whatever exchange of whatever operation; and of the
SR2 read of GET_FAULT_STATUS. -/
def Obligations.FirstReplyIsNeverUsed : Prop :=
  (∀ (s t : State) (i : Instr) (a : Addr) (rx rx' : Frame) (after : Option Device) (ds : List Draw),
    s.seq = .idle → i.wellFormed s.cfg = true → readsFirst i = true → firstRegister s.cfg i = some a →
    exec i (withReply s rx after ds) = .next t →
    ∃ l, t.trace = s.trace ++ .completed (packRead a) rx :: l ∧
      exec i (withReply s rx' after ds) = .next { t with trace := s.trace ++ .completed (packRead a) rx' :: l }) ∧
  (∀ (s : State) (op : Operation) (k : Nat) (rx rx' : Frame) (after : Option Device) (ds : List Draw),
    s.seq = .busy op k → op.plan[k]? = some .readFirst →
    ∃ l, (withReply s rx after ds).resume.trace = s.trace ++ .completed (packRead (s.target op k)) rx :: l ∧
      (withReply s rx' after ds).resume =
        { (withReply s rx after ds).resume with
          trace := s.trace ++ .completed (packRead (s.target op k)) rx' :: l }) ∧
  (∀ (s t : State) (rx1 rx2 rx rx' : Frame) (after1 after2 after : Option Device) (ds : List Draw),
    s.seq = .idle → rx2.getLsbD 15 = false →
    exec (.getFaultStatus 0 0 0) (withReply s rx1 after1
      (.any (.reply (toBytes rx2)) after2 :: .any (.reply (toBytes rx)) after :: ds)) = .next t →
    ∃ l, t.trace = s.trace ++ completedTrace (readFrames s.cfg.regAddr.sr1) [rx1, rx2] ++
        (TraceEntry.completed (packRead s.cfg.regAddr.sr2) rx :: l) ∧
      exec (.getFaultStatus 0 0 0) (withReply s rx1 after1
        (.any (.reply (toBytes rx2)) after2 :: .any (.reply (toBytes rx')) after :: ds)) =
          .next { t with trace := s.trace ++ completedTrace (readFrames s.cfg.regAddr.sr1) [rx1, rx2] ++
            (TraceEntry.completed (packRead s.cfg.regAddr.sr2) rx' :: l) })

/-- R94, R103 (b): bits 14:11 of a reply change no result. With those bits of every scripted reply cleared, an operation,
accepted now or in progress, makes the same exchanges with the same replies but for those bits, ends in the same way and
leaves the same device. -/
def Obligations.UpperReplyBitsAreIgnored : Prop :=
  (∀ (s t : State) (i : Instr), exec i s = .next t →
    ∃ u, exec i (clearedReplies s) = .next u ∧ SameButUpperBits t u) ∧
  ∀ s : State, SameButUpperBits s.resume (clearedReplies s).resume

/-! ## Encodings -/

/-- Decode and encode agree, for every instruction that has a word: no bit of an encoding is dropped (R90 to R100). -/
def Obligations.DecodeUndoesEncode : Prop :=
  (∀ (i : Instr) (w : Encoded), i.wellFormed Config.default = true → encode i = some w → decode w = .ok i) ∧
  (∀ (i : Instr), isRequest i = true → ∃ w : ReqWord, encode i = some (.request w) ∧ decode (.request w) = .ok i)

/-- Every request word is the word of the one instruction it decodes to, and its fields are R96's (R96, R97, R100). -/
def Obligations.EncodeUndoesDecode : Prop :=
  (∀ w : ReqWord, encode (decodeRequest w) = some (.request w)) ∧
  (∀ (op : BitVec 5) (addr : Addr) (a b : RegValue),
    (packRequest op addr a b).toNat = op.toNat * 2 ^ 26 + addr.toNat * 2 ^ 22 + a.toNat * 2 ^ 11 + b.toNat)

/-- Words of the spec, written out by hand, decode to their instructions: the sixteen rows of R97's table with zero
operands (vector V54), words with operands, the refused words (R100), the frames, and 95 section 2. -/
def Obligations.WordsOfTheSpecDecode : Prop :=
  decode (.request 0x00000000) = .ok (.rawRead 0 0 0) ∧ decode (.request 0x04000000) = .ok (.rawWrite 0 0 0) ∧
  decode (.request 0x08000000) = .ok (.rawModify 0 0 0) ∧ decode (.request 0x0C000000) = .ok (.hasFault 0 0 0) ∧
  decode (.request 0x10000000) = .ok (.getDeviceId 0 0 0) ∧
  decode (.request 0x14000000) = .ok (.getFaultStatus 0 0 0) ∧
  decode (.request 0x18000000) = .ok (.setOcAdj 0 0 0) ∧ decode (.request 0x1C000000) = .ok (.setOcpMode 0 0 0) ∧
  decode (.request 0x20000000) = .ok (.setPwmMode 0 0 0) ∧ decode (.request 0x24000000) = .ok (.setGateReset 0 0 0) ∧
  decode (.request 0x28000000) = .ok (.setGateCurrent 0 0 0) ∧ decode (.request 0x2C000000) = .ok (.setGain 0 0 0) ∧
  decode (.request 0x30000000) = .ok (.setOctwMode 0 0 0) ∧ decode (.request 0x34000000) = .ok (.setDcCalCh1 0 0 0) ∧
  decode (.request 0x38000000) = .ok (.setDcCalCh2 0 0 0) ∧ decode (.request 0x3C000000) = .ok (.setOcToff 0 0 0) ∧
  decode (.request 0x00800000) = .ok (.rawRead 2 0 0) ∧ decode (.request 0x048007FF) = .ok (.rawWrite 2 0 0x7FF) ∧
  decode (.request 0x08C06008) = .ok (.rawModify 3 0x00C 0x008) ∧
  decode (.request 0x1800001F) = .ok (.setOcAdj 0 0 31) ∧ decode (.request 0x30000003) = .ok (.setOctwMode 0 0 3) ∧
  decode (.request 0x80800000) = .ok (.rsvSet 0x00800000) ∧ decode (.request 0x7C000000) = .ok (.unassigned 15 0 0 0) ∧
  decode (.command 0x1040) = .ok (.writeFrame 2 0x040) ∧ decode (.command 0x9800) = .ok (.readFrame 3) ∧
  decode (.command 0x9D55) = .error (.readFrameWithPayload 0x9D55) ∧
  decode (.response 0x8003) = .ok (.responseFrame 0x8003)

/-- R104: the assembler's example lines, each exactly one request word. -/
def Obligations.AssemblerLinesOfTheSpec : Prop :=
  (assemble Config.default .rawRead [.reg .cr1]).bind encode = some (.request 0x00800000) ∧
  (assemble Config.default .rawWrite [.reg .cr1, .num 0x000]).bind encode = some (.request 0x04800000) ∧
  (assemble Config.default .rawModify [.reg .cr2, .num 0x00C, .num 0x008]).bind encode =
    some (.request 0x08C06008) ∧
  (assemble Config.default .setOcAdj [.num 1]).bind encode = some (.request 0x18000001) ∧
  (assemble Config.default .getFaultStatus []).bind encode = some (.request 0x14000000)
end

