-- ==== Sys2Proof/Laws/Codec.lean ====
section
/-! SUPPORT. What the packing functions of the Frame Codec give, bit by bit. -/
namespace Sys2Proof.Machine

/-- The bits of a write frame: payload, address, a clear bit 15. -/
theorem packWrite_getLsbD (a : Addr) (v : RegValue) (j : Nat) :
    (packWrite a v).getLsbD j = if j < 11 then v.getLsbD j else a.getLsbD (j - 11) := by
  simp only [packWrite, BitVec.getLsbD_append]
  split
  · rfl
  · split
    · rfl
    · have : a.getLsbD (j - 11) = false := BitVec.getLsbD_of_ge _ _ (by omega)
      simp [this]

/-- The bits of a read frame: a zero payload, the address, bit 15. -/
theorem packRead_getLsbD (a : Addr) (j : Nat) :
    (packRead a).getLsbD j = if j < 11 then false else if j < 15 then a.getLsbD (j - 11) else decide (j = 15) := by
  simp only [packRead, BitVec.getLsbD_append]
  split
  · simp
  · split
    · rw [if_pos (by omega)]
    · rw [if_neg (by omega), BitVec.getLsbD_one]
      simp; omega

@[simp] theorem packWrite_bit15 (a : Addr) (v : RegValue) : (packWrite a v)[15] = false := by
  have := packWrite_getLsbD a v 15
  simpa using this

@[simp] theorem packRead_bit15 (a : Addr) : (packRead a)[15] = true := by
  have := packRead_getLsbD a 15
  simpa using this

@[simp] theorem packWrite_payload (a : Addr) (v : RegValue) : (packWrite a v).extractLsb' 0 11 = v := by
  apply BitVec.eq_of_getLsbD_eq
  intro j hj
  rw [BitVec.getLsbD_extractLsb', packWrite_getLsbD]
  simp [hj]

@[simp] theorem packWrite_addr (a : Addr) (v : RegValue) : (packWrite a v).extractLsb' 11 4 = a := by
  apply BitVec.eq_of_getLsbD_eq
  intro j hj
  rw [BitVec.getLsbD_extractLsb', packWrite_getLsbD]
  simp [hj]

@[simp] theorem packRead_payload (a : Addr) : (packRead a).extractLsb' 0 11 = 0#11 := by
  apply BitVec.eq_of_getLsbD_eq
  intro j hj
  rw [BitVec.getLsbD_extractLsb', packRead_getLsbD]
  simp [hj]

@[simp] theorem packRead_addr (a : Addr) : (packRead a).extractLsb' 11 4 = a := by
  apply BitVec.eq_of_getLsbD_eq
  intro j hj
  rw [BitVec.getLsbD_extractLsb', packRead_getLsbD]
  simp [hj]
  omega

/-- What the device reads from a write frame. -/
@[simp] theorem decodeCommand_packWrite (a : Addr) (v : RegValue) : decodeCommand (packWrite a v) = (false, a, v) := by
  simp [decodeCommand]

/-- What the device reads from a read frame. -/
@[simp] theorem decodeCommand_packRead (a : Addr) : decodeCommand (packRead a) = (true, a, 0#11) := by
  simp [decodeCommand]

/-- A frame survives the transport port's bytes. -/
@[simp] theorem fromBytes_toBytes (f : Frame) : fromBytes (toBytes f) = f := by
  apply BitVec.eq_of_getLsbD_eq
  intro j hj
  simp only [fromBytes, toBytes, BitVec.getLsbD_append, BitVec.getLsbD_extractLsb']
  split
  · simp [*]
  · have h : j - 8 < 8 := by omega
    simp [h]
    congr 1; omega

/-- Every byte pair is the bytes of some frame. -/
@[simp] theorem toBytes_fromBytes (p : BytePair) : toBytes (fromBytes p) = p := by
  obtain ⟨x, y⟩ := p
  simp only [toBytes, fromBytes, BytePair.mk.injEq]
  constructor <;>
  · apply BitVec.eq_of_getLsbD_eq
    intro j hj
    rw [BitVec.getLsbD_extractLsb', BitVec.getLsbD_append]
    simp [hj]

/-- ENCODE_WRITE on operands in range (R120). -/
theorem encodeWrite_ok {address value : Nat} (ha : address ≤ 15) (hv : value ≤ 0x7FF) :
    encodeWrite address value = some (packWrite (BitVec.ofNat 4 address) (BitVec.ofNat 11 value)) := by
  simp [encodeWrite]; omega

/-- ENCODE_WRITE rejects an operand out of range (R121). -/
theorem encodeWrite_reject {address value : Nat} (h : 15 < address ∨ 0x7FF < value) :
    encodeWrite address value = none := by
  simp [encodeWrite]; omega

/-- ENCODE_READ on an address in range (R122). -/
theorem encodeRead_ok {address : Nat} (ha : address ≤ 15) :
    encodeRead address = some (packRead (BitVec.ofNat 4 address)) := by
  simp [encodeRead]; omega

/-- ENCODE_READ rejects an address out of range (R121). -/
theorem encodeRead_reject {address : Nat} (h : 15 < address) : encodeRead address = none := by
  simp [encodeRead]; omega

/-- The encoders on operands of the wire's widths never reject. -/
@[simp] theorem encodeWrite_toNat (a : Addr) (v : RegValue) : encodeWrite a.toNat v.toNat = some (packWrite a v) := by
  rw [encodeWrite_ok (by omega) (by omega)]; simp

@[simp] theorem encodeRead_toNat (a : Addr) : encodeRead a.toNat = some (packRead a) := by
  rw [encodeRead_ok (by omega)]; simp

end Sys2Proof.Machine
end

