-- ==== Sys2Proof/Laws/State.lean ====
section
/-! SUPPORT. One lemma per field of State for each update of the shared operations, true by definition. -/
namespace Sys2Proof.Machine

@[simp] theorem State.resetWith_cfg (c : Config) : (State.resetWith c).cfg = c := rfl
@[simp] theorem State.resetWith_seq (c : Config) : (State.resetWith c).seq = .idle := rfl
@[simp] theorem State.resetWith_valid (c : Config) : (State.resetWith c).res.valid = false := rfl
@[simp] theorem State.resetWith_ownsBus (c : Config) : (State.resetWith c).ownsBus = true := rfl
@[simp] theorem State.resetWith_trace (c : Config) : (State.resetWith c).trace = [] := rfl
@[simp] theorem State.resetWith_inputs (c : Config) : (State.resetWith c).inputs = [] := rfl

@[simp] theorem State.accept_cfg (s : State) (op : Operation) (addr : Addr) (a b : RegValue) : (s.accept op addr a b).cfg = s.cfg := rfl
@[simp] theorem State.accept_seq (s : State) (op : Operation) (addr : Addr) (a b : RegValue) : (s.accept op addr a b).seq = .busy op 0 := rfl
@[simp] theorem State.accept_req (s : State) (op : Operation) (addr : Addr) (a b : RegValue) : (s.accept op addr a b).req = ⟨op.opcode.getD s.req.op, addr, a, b⟩ := rfl
@[simp] theorem State.accept_img (s : State) (op : Operation) (addr : Addr) (a b : RegValue) : (s.accept op addr a b).img = s.img := rfl
@[simp] theorem State.accept_s1 (s : State) (op : Operation) (addr : Addr) (a b : RegValue) : (s.accept op addr a b).s1 = s.s1 := rfl
@[simp] theorem State.accept_res (s : State) (op : Operation) (addr : Addr) (a b : RegValue) : (s.accept op addr a b).res = { s.res with valid := false } := rfl
@[simp] theorem State.accept_ownsBus (s : State) (op : Operation) (addr : Addr) (a b : RegValue) : (s.accept op addr a b).ownsBus = s.ownsBus := rfl
@[simp] theorem State.accept_env (s : State) (op : Operation) (addr : Addr) (a b : RegValue) : (s.accept op addr a b).env = s.env := rfl
@[simp] theorem State.accept_trace (s : State) (op : Operation) (addr : Addr) (a b : RegValue) : (s.accept op addr a b).trace = s.trace := rfl
@[simp] theorem State.accept_inputs (s : State) (op : Operation) (addr : Addr) (a b : RegValue) : (s.accept op addr a b).inputs = s.inputs := rfl
@[simp] theorem State.accept_out (s : State) (op : Operation) (addr : Addr) (a b : RegValue) : (s.accept op addr a b).out = s.out := rfl
@[simp] theorem State.accept_freeCount (s : State) (op : Operation) (addr : Addr) (a b : RegValue) : (s.accept op addr a b).freeCount = s.freeCount := rfl

@[simp] theorem State.finish_cfg (s : State) (d : BitVec 16) : (s.finish d).cfg = s.cfg := rfl
@[simp] theorem State.finish_seq (s : State) (d : BitVec 16) : (s.finish d).seq = .idle := rfl
@[simp] theorem State.finish_req (s : State) (d : BitVec 16) : (s.finish d).req = s.req := rfl
@[simp] theorem State.finish_img (s : State) (d : BitVec 16) : (s.finish d).img = s.img := rfl
@[simp] theorem State.finish_s1 (s : State) (d : BitVec 16) : (s.finish d).s1 = s.s1 := rfl
@[simp] theorem State.finish_res (s : State) (d : BitVec 16) : (s.finish d).res = ⟨true, .ok, d, Config.freeCause s.freeCount⟩ := rfl
@[simp] theorem State.finish_ownsBus (s : State) (d : BitVec 16) : (s.finish d).ownsBus = s.ownsBus := rfl
@[simp] theorem State.finish_env (s : State) (d : BitVec 16) : (s.finish d).env = s.env := rfl
@[simp] theorem State.finish_trace (s : State) (d : BitVec 16) : (s.finish d).trace = s.trace := rfl
@[simp] theorem State.finish_inputs (s : State) (d : BitVec 16) : (s.finish d).inputs = s.inputs := rfl
@[simp] theorem State.finish_out (s : State) (d : BitVec 16) : (s.finish d).out = s.out := rfl
@[simp] theorem State.finish_freeCount (s : State) (d : BitVec 16) : (s.finish d).freeCount = s.freeCount + 1 := rfl

@[simp] theorem State.raise_cfg (s : State) (e : OpError) : (s.raise e).cfg = s.cfg := rfl
@[simp] theorem State.raise_seq (s : State) (e : OpError) : (s.raise e).seq = .idle := rfl
@[simp] theorem State.raise_req (s : State) (e : OpError) : (s.raise e).req = s.req := rfl
@[simp] theorem State.raise_img (s : State) (e : OpError) : (s.raise e).img = s.img := rfl
@[simp] theorem State.raise_s1 (s : State) (e : OpError) : (s.raise e).s1 = s.s1 := rfl
@[simp] theorem State.raise_res (s : State) (e : OpError) : (s.raise e).res = ⟨true, errorStatus e, 0#16, s.errorCause e⟩ := rfl
@[simp] theorem State.raise_ownsBus (s : State) (e : OpError) : (s.raise e).ownsBus = s.ownsBus := rfl
@[simp] theorem State.raise_env (s : State) (e : OpError) : (s.raise e).env = s.env := rfl
@[simp] theorem State.raise_trace (s : State) (e : OpError) : (s.raise e).trace = s.trace := rfl
@[simp] theorem State.raise_inputs (s : State) (e : OpError) : (s.raise e).inputs = s.inputs := rfl
@[simp] theorem State.raise_out (s : State) (e : OpError) : (s.raise e).out = s.out := rfl
@[simp] theorem State.raise_freeCount (s : State) (e : OpError) : (s.raise e).freeCount = s.freeCount + 1 := rfl

@[simp] theorem State.refuse_cfg (s : State) : (s.refuse).cfg = s.cfg := rfl
@[simp] theorem State.refuse_seq (s : State) : (s.refuse).seq = .idle := rfl
@[simp] theorem State.refuse_req (s : State) : (s.refuse).req = s.req := rfl
@[simp] theorem State.refuse_img (s : State) : (s.refuse).img = s.img := rfl
@[simp] theorem State.refuse_s1 (s : State) : (s.refuse).s1 = s.s1 := rfl
@[simp] theorem State.refuse_res (s : State) : (s.refuse).res = ⟨true, .notSupported, 0#16, Config.freeCause s.freeCount⟩ := rfl
@[simp] theorem State.refuse_ownsBus (s : State) : (s.refuse).ownsBus = s.ownsBus := rfl
@[simp] theorem State.refuse_env (s : State) : (s.refuse).env = s.env := rfl
@[simp] theorem State.refuse_trace (s : State) : (s.refuse).trace = s.trace := rfl
@[simp] theorem State.refuse_inputs (s : State) : (s.refuse).inputs = s.inputs := rfl
@[simp] theorem State.refuse_out (s : State) : (s.refuse).out = s.out := rfl
@[simp] theorem State.refuse_freeCount (s : State) : (s.refuse).freeCount = s.freeCount + 1 := rfl

@[simp] theorem State.blockReset_cfg (s : State) : (s.blockReset).cfg = s.cfg := rfl
@[simp] theorem State.blockReset_seq (s : State) : (s.blockReset).seq = .idle := rfl
@[simp] theorem State.blockReset_req (s : State) : (s.blockReset).req = s.req := rfl
@[simp] theorem State.blockReset_img (s : State) : (s.blockReset).img = s.img := rfl
@[simp] theorem State.blockReset_s1 (s : State) : (s.blockReset).s1 = s.s1 := rfl
@[simp] theorem State.blockReset_res (s : State) : (s.blockReset).res = { s.res with valid := false } := rfl
@[simp] theorem State.blockReset_ownsBus (s : State) : (s.blockReset).ownsBus = true := rfl
@[simp] theorem State.blockReset_env (s : State) : (s.blockReset).env = s.env := rfl
@[simp] theorem State.blockReset_trace (s : State) : (s.blockReset).trace = s.trace := rfl
@[simp] theorem State.blockReset_inputs (s : State) : (s.blockReset).inputs = s.inputs := rfl
@[simp] theorem State.blockReset_out (s : State) : (s.blockReset).out = s.out := rfl
@[simp] theorem State.blockReset_freeCount (s : State) : (s.blockReset).freeCount = s.freeCount := rfl

@[simp] theorem errorStatus_transport (c : TransportCause) : errorStatus (.transport c) = .transport := rfl
@[simp] theorem errorStatus_frameError : errorStatus .frameError = .frameError := rfl
@[simp] theorem errorStatus_notSupported : errorStatus .notSupported = .notSupported := rfl
@[simp] theorem State.errorCause_transport (s : State) (c : TransportCause) : s.errorCause (.transport c) = c := rfl
@[simp] theorem countExchange_idle : countExchange .idle = .idle := rfl
@[simp] theorem countExchange_busy (op : Operation) (k : Nat) : countExchange (.busy op k) = .busy op (k + 1) := rfl

end Sys2Proof.Machine
end

