-- ==== Sys2Proof/Laws/Ops.lean ====
section
/-! SUPPORT. What the shared operations can do, said once: an exchange, running an operation, a request, and the one
lemma that takes exec apart for every operation. -/
namespace Sys2Proof.Machine
open Sys2Proof.Safety

/-! ### One exchange -/

/-- The block after an exchange that gave rx and left the environment as e. -/
def State.received (s : State) (tx rx : Frame) (e : Env) : State :=
  { s with env := e, trace := s.trace ++ [.completed tx rx], seq := countExchange s.seq }

theorem State.exchange_reply {s : State} {tx rx : Frame} {e : Env}
    (h : s.env.exchange (toBytes tx) = (.reply (toBytes rx), e)) :
    s.exchange tx = .received rx (s.received tx rx e) := by
  simp [State.exchange, h, State.received]

theorem State.exchange_fail {s : State} {tx : Frame} {c : TransportCause} {e : Env}
    (h : s.env.exchange (toBytes tx) = (.fail c, e)) :
    s.exchange tx = .failed c { s with env := e, trace := s.trace ++ [.failed tx c] } := by
  simp [State.exchange, h]

theorem State.exchange_stall {s : State} {tx : Frame} {e : Env}
    (h : s.env.exchange (toBytes tx) = (.stall, e)) : s.exchange tx = .waiting { s with env := e } := by
  simp [State.exchange, h]

/-- An exchange ends in one of three ways, and each says what the environment did. -/
theorem State.exchange_cases (s : State) (tx : Frame) :
    (∃ rx e, s.env.exchange (toBytes tx) = (.reply (toBytes rx), e) ∧
      s.exchange tx = .received rx (s.received tx rx e)) ∨
    (∃ c e, s.env.exchange (toBytes tx) = (.fail c, e) ∧
      s.exchange tx = .failed c { s with env := e, trace := s.trace ++ [.failed tx c] }) ∨
    (∃ e, s.env.exchange (toBytes tx) = (.stall, e) ∧ s.exchange tx = .waiting { s with env := e }) := by
  rcases hx : s.env.exchange (toBytes tx) with ⟨a, e⟩
  cases a with
  | reply p =>
    have h : s.env.exchange (toBytes tx) = (.reply (toBytes (fromBytes p)), e) := by simpa using hx
    exact .inl ⟨fromBytes p, e, by simp, State.exchange_reply h⟩
  | fail c => exact .inr (.inl ⟨c, e, rfl, State.exchange_fail hx⟩)
  | stall => exact .inr (.inr ⟨e, rfl, State.exchange_stall hx⟩)

section
variable (s : State) (tx rx : Frame) (e : Env)
@[simp] theorem State.received_cfg : (s.received tx rx e).cfg = s.cfg := rfl
@[simp] theorem State.received_seq : (s.received tx rx e).seq = countExchange s.seq := rfl
@[simp] theorem State.received_req : (s.received tx rx e).req = s.req := rfl
@[simp] theorem State.received_img : (s.received tx rx e).img = s.img := rfl
@[simp] theorem State.received_s1 : (s.received tx rx e).s1 = s.s1 := rfl
@[simp] theorem State.received_res : (s.received tx rx e).res = s.res := rfl
@[simp] theorem State.received_ownsBus : (s.received tx rx e).ownsBus = s.ownsBus := rfl
@[simp] theorem State.received_env : (s.received tx rx e).env = e := rfl
@[simp] theorem State.received_trace : (s.received tx rx e).trace = s.trace ++ [.completed tx rx] := rfl
@[simp] theorem State.received_inputs : (s.received tx rx e).inputs = s.inputs := rfl
@[simp] theorem State.received_out : (s.received tx rx e).out = s.out := rfl
@[simp] theorem State.received_freeCount : (s.received tx rx e).freeCount = s.freeCount := rfl
end

/-! ### Running an operation -/

@[simp] theorem State.advance_zero (s : State) : s.advance 0 = s := rfl

theorem State.advance_idle {s : State} (h : s.seq = .idle) (n : Nat) : s.advance n = s := by
  cases n <;> simp [State.advance, h]

theorem State.advance_pastPlan {s : State} {op : Operation} {k : Nat} (h : s.seq = .busy op k)
    (hp : op.plan[k]? = none) (n : Nat) : s.advance n = s := by
  cases n <;> simp [State.advance, h, hp]

theorem State.advance_reply {s : State} {op : Operation} {k : Nat} {st : Stage} {rx : Frame} {e : Env}
    (hs : s.seq = .busy op k) (hp : op.plan[k]? = some st)
    (h : s.env.exchange (toBytes (s.frameFor op k st)) = (.reply (toBytes rx), e)) (n : Nat) :
    s.advance (n + 1) = ((s.received (s.frameFor op k st) rx e).onReply op k rx st).advance n := by
  simp [State.advance, hs, hp, State.exchange_reply h]

theorem State.advance_fail {s : State} {op : Operation} {k : Nat} {st : Stage} {c : TransportCause} {e : Env}
    (hs : s.seq = .busy op k) (hp : op.plan[k]? = some st)
    (h : s.env.exchange (toBytes (s.frameFor op k st)) = (.fail c, e)) (n : Nat) :
    s.advance (n + 1) =
      State.raise { s with env := e, trace := s.trace ++ [.failed (s.frameFor op k st) c] } (.transport c) := by
  simp [State.advance, hs, hp, State.exchange_fail h]

theorem State.advance_stall {s : State} {op : Operation} {k : Nat} {st : Stage} {e : Env}
    (hs : s.seq = .busy op k) (hp : op.plan[k]? = some st)
    (h : s.env.exchange (toBytes (s.frameFor op k st)) = (.stall, e)) (n : Nat) :
    s.advance (n + 1) = { s with env := e } := by
  simp [State.advance, hs, hp, State.exchange_stall h]

/-- Induction over an operation's exchanges: what each way of ending an exchange keeps, the whole run keeps. -/
theorem State.advance_induction {P : State → Prop}
    (reply : ∀ s op k st rx e, P s → s.seq = .busy op k → op.plan[k]? = some st →
      P ((s.received (s.frameFor op k st) rx e).onReply op k rx st))
    (fail : ∀ s op k st c e, P s → s.seq = .busy op k → op.plan[k]? = some st →
      P (State.raise { s with env := e, trace := s.trace ++ [.failed (s.frameFor op k st) c] } (.transport c)))
    (stall : ∀ s op k e, P s → s.seq = .busy op k → P { s with env := e })
    (n : Nat) (s : State) (h : P s) : P (s.advance n) := by
  induction n generalizing s with
  | zero => exact h
  | succ n ih =>
    cases hs : s.seq with
    | idle => rw [State.advance_idle hs]; exact h
    | busy op k =>
      cases hp : op.plan[k]? with
      | none => rw [State.advance_pastPlan hs hp]; exact h
      | some st =>
        obtain ⟨rx, e, hx, -⟩ | ⟨c, e, hx, -⟩ | ⟨e, hx, -⟩ := s.exchange_cases (s.frameFor op k st)
        · rw [State.advance_reply hs hp hx]; exact ih _ (reply s op k st rx e h hs hp)
        · rw [State.advance_fail hs hp hx]; exact fail s op k st c e h hs hp
        · rw [State.advance_stall hs hp hx]; exact stall s op k e h hs

/-- What a reply can do to the block: nothing, a new img, a new s1 beside a new img, or an end of the operation. -/
theorem State.onReply_cases (s : State) (op : Operation) (k : Nat) (rx : Frame) (st : Stage) :
    s.onReply op k rx st = s ∨ (∃ v, s.onReply op k rx st = { s with img := v }) ∨
    (op = .getFaultStatus ∧ ∃ v, s.onReply op k rx st = { s with img := v, s1 := v }) ∨
    (∃ v d, s.onReply op k rx st = State.finish { s with img := v } d) ∨
    s.onReply op k rx st = s.raise .frameError := by
  cases st with
  | readFirst => exact .inl rfl
  | readSecond =>
    simp only [State.onReply]
    split
    · simp
    · refine .inr ?_
      cases op <;> simp only [State.afterRead] <;> first
        | exact .inl ⟨_, rfl⟩
        | exact .inr (.inr (.inl ⟨_, _, rfl⟩))
        | (split
           · exact .inr (.inl ⟨by trivial, _, rfl⟩)
           · exact .inr (.inr (.inl ⟨_, _, rfl⟩)))
  | write =>
    simp only [State.onReply]
    split
    · simp
    · exact .inr (.inr (.inr (.inl ⟨s.img, _, rfl⟩)))

theorem sameContext_refl (s : State) : SameContext s s := ⟨rfl, rfl, rfl, rfl⟩

/-- Running an operation keeps what no operation writes. -/
theorem State.advance_context (n : Nat) (s : State) : SameContext s (s.advance n) := by
  refine State.advance_induction (P := SameContext s) ?_ ?_ ?_ n s (sameContext_refl s)
  · intro t op k st rx e ⟨h1, h2, h3, h4⟩ _ _
    obtain h | ⟨v, h⟩ | ⟨-, v, h⟩ | ⟨v, d, h⟩ | h :=
      (t.received (t.frameFor op k st) rx e).onReply_cases op k rx st <;> rw [h] <;>
      exact ⟨h1, h2, h3, h4⟩
  · intro t op k st c e ⟨h1, h2, h3, h4⟩ _ _
    exact ⟨h1, h2, h3, h4⟩
  · intro t op k e ⟨h1, h2, h3, h4⟩ _
    exact ⟨h1, h2, h3, h4⟩

/-! ### What the environment does with a list of frames -/

@[simp] theorem completes_nil {e e' : Env} : Completes e [] [] e' ↔ e = e' := Iff.rfl

@[simp] theorem completes_cons {e e' : Env} {tx rx : Frame} {txs rxs : List Frame} :
    Completes e (tx :: txs) (rx :: rxs) e' ↔
      ∃ e1, e.exchange (toBytes tx) = (.reply (toBytes rx), e1) ∧ Completes e1 txs rxs e' := Iff.rfl

/-- Two lists of frames, one after the other. -/
theorem completes_append {txs rxs : List Frame} {txs' rxs' : List Frame} {e e' : Env}
    (hl : txs.length = rxs.length) :
    Completes e (txs ++ txs') (rxs ++ rxs') e' ↔ ∃ e1, Completes e txs rxs e1 ∧ Completes e1 txs' rxs' e' := by
  induction txs generalizing rxs e with
  | nil =>
    obtain rfl : rxs = [] := by simpa using hl.symm
    simp
  | cons tx txs ih =>
    cases rxs with
    | nil => simp at hl
    | cons rx rxs =>
      simp only [List.cons_append, completes_cons, ih (by simpa using hl)]
      constructor
      · rintro ⟨e1, h, e2, h2, h3⟩
        exact ⟨e2, ⟨e1, h, h2⟩, h3⟩
      · rintro ⟨e2, ⟨e1, h, h2⟩, h3⟩
        exact ⟨e1, h, e2, h2, h3⟩

/-! ### A logical read -/

/-- The block after the two exchanges of a read that starts at exchange k (R143). -/
def State.afterTwo (s : State) (op : Operation) (k : Nat) (rx1 rx2 : Frame) (e1 e2 : Env) : State :=
  (s.received (packRead (s.target op k)) rx1 e1).received (packRead (s.target op (k + 1))) rx2 e2

/-- A read whose two exchanges complete goes on with its second reply alone (R143, R144). -/
theorem State.advance_read {s : State} {op : Operation} {k : Nat} {rx1 rx2 : Frame} {e1 e2 : Env}
    (hs : s.seq = .busy op k) (h1 : op.plan[k]? = some .readFirst) (h2 : op.plan[k + 1]? = some .readSecond)
    (x1 : s.env.exchange (toBytes (packRead (s.target op k))) = (.reply (toBytes rx1), e1))
    (x2 : e1.exchange (toBytes (packRead (s.target op (k + 1)))) = (.reply (toBytes rx2), e2)) (n : Nat) :
    s.advance (n + 2) = ((s.afterTwo op k rx1 rx2 e1 e2).onReply op (k + 1) rx2 .readSecond).advance n := by
  rw [State.advance_reply hs h1 x1]
  have hs' : (State.onReply (s.received (s.frameFor op k .readFirst) rx1 e1) op k rx1 .readFirst).seq =
      .busy op (k + 1) := by simp [State.onReply, hs]
  rw [State.advance_reply (rx := rx2) (e := e2) hs' h2 x2]
  rfl

/-! ### Requests -/

theorem State.whenIdle_idle {s : State} (h : s.seq = .idle) (f : State → State) : s.whenIdle f = .next (f s) := by
  simp [State.whenIdle, h]

theorem State.whenIdle_busy {s : State} {op : Operation} {k : Nat} (h : s.seq = .busy op k) (f : State → State) :
    s.whenIdle f = .next s := by
  simp [State.whenIdle, h]

theorem State.request_accepted {s : State} (h : s.seq = .idle) (op : Operation) (addr : Addr) (a b : RegValue) :
    s.request true op addr a b = .next ((s.accept op addr a b).advance 4) := by
  simp [State.request, State.whenIdle_idle h, State.resume]

theorem State.refuse_eq {s : State} (h : s.seq = .idle) : s.refuse = refusedState s := by
  simp only [State.refuse, State.raise, refusedState, ← h]; rfl

theorem State.request_refused {s : State} (h : s.seq = .idle) (op : Operation) (addr : Addr) (a b : RegValue) :
    s.request false op addr a b = .next (refusedState s) := by
  simp [State.request, State.whenIdle_idle h, State.refuse_eq h]

theorem State.request_busy {s : State} {op' : Operation} {k : Nat} (h : s.seq = .busy op' k) (legal : Bool)
    (op : Operation) (addr : Addr) (a b : RegValue) : s.request legal op addr a b = .next s :=
  State.whenIdle_busy h _

/-- exec of every operation is one request: the operands it latches, when it is legal, the register its first exchange
goes to, and what a plain write sends. -/
theorem exec_operation {i : Instr} {op : Operation} (h : operationOf i = some op) :
    ∃ (legal : Config → Bool) (addr : Addr) (a b : RegValue),
      (∀ s, exec i s = s.request (legal s.cfg) op addr a b) ∧
      (∀ c, i.wellFormed c = true → legal c = true) ∧
      (isRequest i = true → ∀ c, legal c = i.wellFormed c) ∧
      (∀ s : State, firstRegister s.cfg i = some ((s.accept op addr a b).target op 0)) ∧
      (readsFirst i = false →
        (i = .rawWrite addr a b ∧ op = .rawWrite ∨ i = .writeRegister addr b ∧ op = .writeRegister)) ∧
      (∀ w, encode i = some (.request w) → ∃ c, op.opcode = some c ∧ w = packRequest c addr a b) := by
  cases i <;> simp only [operationOf, Option.some.injEq, reduceCtorEq] at h <;> subst h
  case writeRegister =>
    exact ⟨fun _ => true, _, _, _, fun _ => rfl, fun _ _ => rfl, by simp [isRequest], fun _ => rfl, by simp [readsFirst],
      by simp [encode]⟩
  case readRegister =>
    exact ⟨fun _ => true, _, _, _, fun _ => rfl, fun _ _ => rfl, by simp [isRequest], fun _ => rfl,
      by simp [readsFirst, operationOf], by simp [encode]⟩
  case modifyRegister =>
    exact ⟨fun _ => true, _, _, _, fun _ => rfl, fun _ _ => rfl, by simp [isRequest], fun _ => rfl,
      by simp [readsFirst, operationOf], by simp [encode]⟩
  all_goals
    rename_i addr a b
    refine ⟨fun c => Instr.wellFormed c _, addr, a, b, fun s => ?_, fun _ h => h, fun _ _ => rfl, fun _ => rfl, ?_, ?_⟩
    · simp only [exec, execRawRead, execRawWrite, execRawModify, execHasFault, execGetDeviceId, execGetFaultStatus,
        execSetOcAdj, execSetOcpMode, execSetPwmMode, execSetGateReset, execSetGateCurrent, execSetGain,
        execSetOctwMode, execSetDcCalCh1, execSetDcCalCh2, execSetOcToff, Instr.wellFormed, noOperands,
        noOperandsLegal, setterOperands, setterLegal, FieldName.admits, maskLegal, Bool.and_assoc]
    · simp [readsFirst, operationOf]
    · intro w hw
      refine ⟨_, rfl, ?_⟩
      simpa [encode] using hw.symm

/-- Every setter is one request of a read-modify-write of its field (R200). -/
theorem exec_setter {mk : Addr → RegValue → RegValue → Instr} {f : FieldName} (h : (mk, f) ∈ setters) :
    ∃ op : Operation, op.field = some f ∧ op.plan = [.readFirst, .readSecond, .write] ∧
      ∀ (s : State) (addr : Addr) (a b : RegValue),
        exec (mk addr a b) s = s.request (setterLegal s.cfg f addr a b) op addr a b := by
  simp only [setters, List.mem_cons, List.not_mem_nil, or_false, Prod.mk.injEq] at h
  rcases h with h | h | h | h | h | h | h | h | h | h <;> obtain ⟨rfl, rfl⟩ := h
  -- the meaning names the operation, and the operation its field and its plan
  all_goals
    refine ⟨_, ?_, ?_, fun _ _ _ _ => rfl⟩
    · rfl
    · rfl

/-- What a setter is legal on: no stray field, and a code its field admits (R200). -/
theorem setterLegal_zero (c : Config) (f : FieldName) (code : RegValue) :
    setterLegal c f 0 0 code = f.admits c code := by
  simp [setterLegal, FieldName.admits]

/-- The read-modify-write a setter's operation makes (R200). -/
theorem State.mutation_of_field {op : Operation} {f : FieldName} (h : op.field = some f) (s : State) :
    s.mutation op = ((s.cfg.layout.slot f).mask, placeCode s.cfg.layout f s.req.b) := by
  simp [State.mutation, h]

end Sys2Proof.Machine
end

