-- ==== Sys2Proof/Laws/Pure.lean ====
section
/-! SUPPORT. What a pure function used alone can do to the block: only its output, and the result of a rejection. -/
namespace Sys2Proof.Machine
open Sys2Proof.Safety

theorem State.output_idle {s : State} (h : s.seq = .idle) (o : Output) : s.output o = .next { s with out := o } :=
  State.whenIdle_idle h _

theorem State.output_busy {s : State} {op : Operation} {k : Nat} (h : s.seq = .busy op k) (o : Output) :
    s.output o = .next s :=
  State.whenIdle_busy h _

theorem State.outputChecked_some {s : State} (h : s.seq = .idle) (f : Frame) :
    s.outputChecked (some f) = .next { s with out := .frame f } :=
  State.whenIdle_idle h _

theorem State.outputChecked_none {s : State} (h : s.seq = .idle) :
    s.outputChecked none = .next (refusedState { s with out := .none }) :=
  (State.whenIdle_idle h _).trans (congrArg Host.Outcome.next (State.refuse_eq (s := { s with out := .none }) h))

theorem State.outputChecked_busy {s : State} {op : Operation} {k : Nat} (h : s.seq = .busy op k) (r : Option Frame) :
    s.outputChecked r = .next s :=
  State.whenIdle_busy h _

/-- Every pure function used alone is an output, or a checked output that is rejected exactly on operands out of range. -/
theorem exec_pure {i : Instr} (h : isPure i = true) (s : State) :
    (∃ o, exec i s = s.output o) ∨
    ∃ r, exec i s = s.outputChecked r ∧ (r = none ↔ i.wellFormed s.cfg = false) := by
  cases i <;> simp only [isPure, Bool.false_eq_true] at h
  case writeFrame a v =>
    refine .inr ⟨_, rfl, ?_⟩
    simp only [encodeWrite, Instr.wellFormed, Bool.and_eq_false_iff, decide_eq_false_iff_not]
    split <;> simp <;> omega
  case readFrame a =>
    refine .inr ⟨_, rfl, ?_⟩
    simp only [encodeRead, Instr.wellFormed, decide_eq_false_iff_not]
    split <;> simp <;> omega
  all_goals exact .inl ⟨_, rfl⟩

end Sys2Proof.Machine
end

