-- ==== Sys2Proof/Laws/Exec.lean ====
section
/-! SUPPORT. Everything exec and step can do, said once, for the statements about all instructions. -/
namespace Sys2Proof.Machine
open Sys2Proof.Safety

/-- Every instruction is something done only in IDLE (R22). -/
theorem exec_whenIdle (i : Instr) (s : State) : ∃ f : State → State, exec i s = s.whenIdle f := by
  cases i
  case writeFrame => exact ⟨_, show State.outputChecked s _ = _ from rfl⟩
  case readFrame => exact ⟨_, show State.outputChecked s _ = _ from rfl⟩
  case unassigned => exact ⟨_, show State.whenIdle s _ = _ from rfl⟩
  case rsvSet => exact ⟨_, show State.whenIdle s _ = _ from rfl⟩
  all_goals first
    | exact ⟨_, show State.request s _ _ _ _ _ = _ from rfl⟩
    | exact ⟨_, show State.output s _ = _ from rfl⟩

/-- What an instruction does in IDLE: an operation is accepted and run, or refused; a refused word is refused; a pure
function writes its output, and, rejecting, the result. -/
theorem exec_idle (i : Instr) {s : State} (h : s.seq = .idle) :
    (∃ op addr a b, operationOf i = some op ∧ exec i s = .next ((s.accept op addr a b).advance 4)) ∨
    (isPure i = false ∧ exec i s = .next (refusedState s)) ∨
    (isPure i = true ∧ operationOf i = none ∧
      ((∃ o, exec i s = .next { s with out := o }) ∨ exec i s = .next (refusedState { s with out := .none }))) := by
  cases hop : operationOf i with
  | some op =>
    obtain ⟨legal, addr, a, b, he, -⟩ := exec_operation hop
    have he := he s
    cases hl : legal s.cfg with
    | true =>
      rw [hl] at he
      exact .inl ⟨op, addr, a, b, rfl, he.trans (State.request_accepted h ..)⟩
    | false =>
      rw [hl] at he
      refine .inr (.inl ⟨?_, he.trans (State.request_refused h ..)⟩)
      cases i <;> first | rfl | simp [operationOf] at hop
  | none =>
    cases hp : isPure i with
    | false =>
      refine .inr (.inl ⟨rfl, ?_⟩)
      cases i <;> simp only [operationOf, isPure, reduceCtorEq, Bool.true_eq_false] at hop hp
      all_goals
        rw [← State.refuse_eq h]
        exact State.whenIdle_idle h fun t => t.refuse
    | true =>
      refine .inr (.inr ⟨rfl, rfl, ?_⟩)
      obtain ⟨o, he⟩ | ⟨r, he, -⟩ := exec_pure hp s
      · exact .inl ⟨o, he.trans (State.output_idle h o)⟩
      · cases r with
        | some f => exact .inl ⟨_, he.trans (State.outputChecked_some h f)⟩
        | none => exact .inr (he.trans (State.outputChecked_none h))

/-- What a step does: a reset of the block, a resumption, nothing, an instruction, or a refusal of a word. -/
theorem step_cases (s : State) :
    (∃ rest, s.inputs = .reset :: rest ∧ step s = .next (State.blockReset { s with inputs := rest })) ∨
    (∃ op k, s.seq = .busy op k ∧ step s = .next s.resume) ∨
    (s.seq = .idle ∧ s.inputs = [] ∧ step s = .next s) ∨
    (∃ i rest, s.seq = .idle ∧ (s.inputs = .use i :: rest ∨ ∃ w, s.inputs = .word w :: rest ∧ decode w = .ok i) ∧
      step s = exec i { s with inputs := rest }) ∨
    (∃ w rest r, s.seq = .idle ∧ s.inputs = .word w :: rest ∧ decode w = .error r ∧
      step s = .refused (.undecodable r)) := by
  cases hs : s.seq with
  | busy op k =>
    cases hi : s.inputs with
    | nil => exact .inr (.inl ⟨op, k, rfl, by simp [step, State.fetch, hs, hi]⟩)
    | cons x rest =>
      cases x with
      | reset => exact .inl ⟨rest, rfl, by simp [step, State.fetch, hs, hi]⟩
      | use i => exact .inr (.inl ⟨op, k, rfl, by simp [step, State.fetch, hs, hi]⟩)
      | word w => exact .inr (.inl ⟨op, k, rfl, by simp [step, State.fetch, hs, hi]⟩)
  | idle =>
    cases hi : s.inputs with
    | nil => exact .inr (.inr (.inl ⟨rfl, rfl, by simp [step, State.fetch, hs, hi]⟩))
    | cons x rest =>
      cases x with
      | reset => exact .inl ⟨rest, rfl, by simp [step, State.fetch, State.take, hs, hi]⟩
      | use i =>
        exact .inr (.inr (.inr (.inl ⟨i, rest, rfl, .inl rfl, by simp [step, State.fetch, State.take, hs, hi]⟩)))
      | word w =>
        cases hd : decode w with
        | ok i =>
          exact .inr (.inr (.inr (.inl
            ⟨i, rest, rfl, .inr ⟨w, rfl, hd⟩, by simp [step, State.fetch, State.take, hs, hi, hd]⟩)))
        | error r =>
          exact .inr (.inr (.inr (.inr
            ⟨w, rest, r, rfl, rfl, hd, by simp [step, State.fetch, State.take, hs, hi, hd]⟩)))

end Sys2Proof.Machine
end

