-- ==== Sys2Proof/Laws/Fields.lean ====
section
/-! SUPPORT. The register map's field functions, bit by bit, for every layout whose fields lie inside bits 10:0 and do
not overlap (42_register_map.md R170). -/
namespace Sys2Proof.Machine

/-- A slot covers bit j of its register (R170). -/
abbrev Covers (p : Slot) (j : Nat) : Prop := p.lsb ≤ j ∧ j < p.lsb + p.width

/-! ### What a well-formed layout gives -/

theorem FieldName.mem_all (f : FieldName) : f ∈ FieldName.all := by cases f <;> decide

theorem FieldLayout.slot_fits {l : FieldLayout} (h : l.wf = true) (f : FieldName) :
    0 < (l.slot f).width ∧ (l.slot f).lsb + (l.slot f).width ≤ 11 := by
  have := List.all_eq_true.1 h f (FieldName.mem_all f)
  simp only [Bool.and_eq_true, decide_eq_true_eq] at this
  exact this.1.1

theorem FieldLayout.slot_flag {l : FieldLayout} (h : l.wf = true) {f : FieldName} (hf : f.isFlag = true) :
    (l.slot f).width = 1 := by
  have := List.all_eq_true.1 h f (FieldName.mem_all f)
  simp only [Bool.and_eq_true, hf, Bool.not_true, Bool.false_or, beq_iff_eq] at this
  exact this.1.2

theorem FieldLayout.masks_disjoint {l : FieldLayout} (h : l.wf = true) {f g : FieldName} (hfg : f ≠ g)
    (hr : f.reg = g.reg) : (l.slot f).mask &&& (l.slot g).mask = 0#11 := by
  have := List.all_eq_true.1 h f (FieldName.mem_all f)
  simp only [Bool.and_eq_true] at this
  have := List.all_eq_true.1 this.2 g (FieldName.mem_all g)
  simpa [hfg, hr] using this

/-! ### Masks -/

theorem Slot.ones_getLsbD {p : Slot} (h : p.width ≤ 11) (j : Nat) : p.ones.getLsbD j = decide (j < p.width) := by
  have key : ∀ w ≤ 11, ∀ j < 11, ((1#11 <<< w) - 1#11).getLsbD j = decide (j < w) := by decide
  by_cases hj : j < 11
  · exact key p.width h j hj
  · rw [BitVec.getLsbD_of_ge _ _ (by omega)]
    simp; omega

theorem Slot.mask_getLsbD {p : Slot} (h : p.lsb + p.width ≤ 11) (j : Nat) :
    p.mask.getLsbD j = decide (Covers p j) := by
  rw [Slot.mask, BitVec.getLsbD_shiftLeft, Slot.ones_getLsbD (by omega)]
  rw [Bool.eq_iff_iff]
  simp only [Bool.and_eq_true, Bool.not_eq_true', decide_eq_true_eq, decide_eq_false_iff_not]
  omega

/-- No bit of a register is in two of its fields (R170). -/
theorem FieldLayout.covers_unique {l : FieldLayout} (h : l.wf = true) {f g : FieldName} {j : Nat}
    (hr : f.reg = g.reg) (hf : Covers (l.slot f) j) (hg : Covers (l.slot g) j) : f = g := by
  by_contra hne
  have := congrArg (·.getLsbD j) (FieldLayout.masks_disjoint h hne hr)
  simp [Slot.mask_getLsbD (FieldLayout.slot_fits h f).2, Slot.mask_getLsbD (FieldLayout.slot_fits h g).2] at this
  omega

/-! ### Field functions -/

/-- EXTRACT, bit by bit (R172). -/
theorem extractField_getLsbD {l : FieldLayout} (h : l.wf = true) (v : RegValue) (f : FieldName) (j : Nat) :
    (extractField l v f).getLsbD j =
      (decide (j < (l.slot f).width) && v.getLsbD ((l.slot f).lsb + j)) := by
  rw [extractField, BitVec.getLsbD_and, BitVec.getLsbD_ushiftRight,
    Slot.ones_getLsbD (by have := FieldLayout.slot_fits h f; omega), Bool.and_comm]

/-- A code at its field's place, bit by bit (R99). -/
theorem placeCode_getLsbD (l : FieldLayout) (f : FieldName) (code : RegValue) (j : Nat) :
    (placeCode l f code).getLsbD j =
      (decide (j < 11) && !decide (j < (l.slot f).lsb) && code.getLsbD (j - (l.slot f).lsb)) :=
  BitVec.getLsbD_shiftLeft ..

/-- The image of a read-modify-write, bit by bit (R181). -/
theorem modifyImage_getLsbD (old mask bits : RegValue) (j : Nat) :
    (modifyImage old mask bits).getLsbD j = if mask.getLsbD j then bits.getLsbD j else old.getLsbD j := by
  by_cases hj : j < 11
  · simp only [modifyImage, BitVec.getLsbD_or, BitVec.getLsbD_and, BitVec.getLsbD_not, hj]
    cases mask.getLsbD j <;> simp
  · simp [BitVec.getLsbD_of_ge _ j (by omega : 11 ≤ j)]

/-- INSERT, bit by bit (R173). -/
theorem insertField_getLsbD {l : FieldLayout} (h : l.wf = true) (v : RegValue) (f : FieldName) (code : RegValue)
    (j : Nat) :
    (insertField l v f code).getLsbD j =
      if Covers (l.slot f) j then code.getLsbD (j - (l.slot f).lsb) else v.getLsbD j := by
  have hfit := (FieldLayout.slot_fits h f).2
  rw [insertField, modifyImage_getLsbD, Slot.mask_getLsbD hfit, placeCode_getLsbD]
  by_cases hc : Covers (l.slot f) j
  · have h1 : j < 11 := by omega
    have h2 : ¬ j < (l.slot f).lsb := by omega
    simp [hc, h1, h2]
  · simp [hc]

/-- A one-bit field read as a Boolean is its bit (R174). -/
theorem extractFlag_eq {l : FieldLayout} (h : l.wf = true) (v : RegValue) {f : FieldName} (hf : f.isFlag = true) :
    extractFlag l v f = v.getLsbD (l.slot f).lsb := by
  have hw := FieldLayout.slot_flag h hf
  have hx : extractField l v f = if v.getLsbD (l.slot f).lsb then 1#11 else 0#11 := by
    apply BitVec.eq_of_getLsbD_eq
    intro j _
    rw [extractField_getLsbD h, hw]
    cases j with
    | zero => simp; split <;> simp_all
    | succ j => simp; split <;> simp
  rw [extractFlag, hx]
  cases v.getLsbD (l.slot f).lsb <;> simp

/-- A flag, as the code of its field, is the field as read (R174, R178). -/
theorem flagCode_extractFlag {l : FieldLayout} (h : l.wf = true) (v : RegValue) {f : FieldName}
    (hf : f.isFlag = true) : flagCode (extractFlag l v f) = extractField l v f := by
  have hw := FieldLayout.slot_flag h hf
  rw [extractFlag_eq h v hf]
  apply BitVec.eq_of_getLsbD_eq
  intro j _
  rw [extractField_getLsbD h, hw]
  cases j with
  | zero => cases v.getLsbD (l.slot f).lsb <;> simp [flagCode]
  | succ j => cases v.getLsbD (l.slot f).lsb <;> simp [flagCode]

/-! ### Reserved bits and records -/

theorem foldl_mask_getLsbD {l : FieldLayout} (h : l.wf = true) (fs : List FieldName) (m : RegValue) (j : Nat) :
    (fs.foldl (fun m f => m ||| (l.slot f).mask) m).getLsbD j =
      (m.getLsbD j || fs.any fun f => decide (Covers (l.slot f) j)) := by
  induction fs generalizing m with
  | nil => simp
  | cons f fs ih =>
    rw [List.foldl_cons, ih, BitVec.getLsbD_or, Slot.mask_getLsbD (FieldLayout.slot_fits h f).2, List.any_cons,
      Bool.or_assoc]

/-- The bits that some field covers (R170). -/
theorem coveredBits_getLsbD {l : FieldLayout} (h : l.wf = true) (r : Reg) (j : Nat) :
    (coveredBits l r).getLsbD j = true ↔ ∃ f : FieldName, f.reg = r ∧ Covers (l.slot f) j := by
  rw [coveredBits, foldl_mask_getLsbD h]
  simp only [BitVec.getLsbD_zero, Bool.false_or, List.any_eq_true, List.mem_filter, beq_iff_eq, decide_eq_true_eq]
  exact ⟨fun ⟨f, ⟨_, hr⟩, hc⟩ => ⟨f, hr, hc⟩, fun ⟨f, hr, hc⟩ => ⟨f, ⟨FieldName.mem_all f, hr⟩, hc⟩⟩

/-- A bit that no field covers is reserved: it is kept (R170). -/
theorem reservedBits_free {l : FieldLayout} (h : l.wf = true) {r : Reg} (v : RegValue) {j : Nat}
    (hn : ∀ f : FieldName, f.reg = r → ¬ Covers (l.slot f) j) : (reservedBits l r v).getLsbD j = v.getLsbD j := by
  have hc : (coveredBits l r).getLsbD j = false := by
    rw [Bool.eq_false_iff]
    intro hc
    obtain ⟨f, h1, h2⟩ := (coveredBits_getLsbD h r j).1 hc
    exact hn f h1 h2
  rw [reservedBits, BitVec.getLsbD_and, BitVec.getLsbD_not, hc]
  by_cases hj : j < 11
  · simp [hj]
  · simp [BitVec.getLsbD_of_ge v j (by omega)]

/-- A bit that some field covers is not reserved (R170). -/
theorem reservedBits_covered {l : FieldLayout} (h : l.wf = true) {f : FieldName} (v : RegValue) {j : Nat}
    (hc : Covers (l.slot f) j) : (reservedBits l f.reg v).getLsbD j = false := by
  rw [reservedBits, BitVec.getLsbD_and, BitVec.getLsbD_not, (coveredBits_getLsbD h f.reg j).2 ⟨f, rfl, hc⟩]
  simp

/-- Inserting members that do not cover bit j leaves it. -/
theorem foldl_insert_other {l : FieldLayout} (h : l.wf = true) (ms : List (FieldName × RegValue)) (v : RegValue)
    (j : Nat) (hn : ∀ m ∈ ms, ¬ Covers (l.slot m.1) j) :
    (ms.foldl (fun v m => insertField l v m.1 m.2) v).getLsbD j = v.getLsbD j := by
  induction ms generalizing v with
  | nil => rfl
  | cons m ms ih =>
    rw [List.foldl_cons, ih _ fun m' hm' => hn m' (List.mem_cons_of_mem _ hm'), insertField_getLsbD h,
      if_neg (hn m List.mem_cons_self)]

/-- Inserting members of which m alone covers bit j gives j m's bit. -/
theorem foldl_insert_member {l : FieldLayout} (h : l.wf = true) (ms : List (FieldName × RegValue)) (v : RegValue)
    (j : Nat) {m : FieldName × RegValue} (hm : m ∈ ms) (hc : Covers (l.slot m.1) j)
    (hu : ∀ m' ∈ ms, Covers (l.slot m'.1) j → m' = m) :
    (ms.foldl (fun v m => insertField l v m.1 m.2) v).getLsbD j = m.2.getLsbD (j - (l.slot m.1).lsb) := by
  induction ms generalizing v with
  | nil => simp at hm
  | cons m' ms ih =>
    rw [List.foldl_cons]
    by_cases hx : m ∈ ms
    · exact ih _ hx fun m' hm' => hu m' (List.mem_cons_of_mem _ hm')
    · obtain rfl : m = m' := by simpa [hx] using hm
      rw [foldl_insert_other h ms _ j fun m' hm' hcov => hx (hu m' (List.mem_cons_of_mem _ hm') hcov ▸ hm'),
        insertField_getLsbD h, if_pos hc]

/-- The members of a record are the fields of its register, each once (R174 to R178). -/
theorem recordMembers_reg (r : RegRecord) : ∀ m ∈ recordMembers r, m.1.reg = recordReg r := by
  cases r <;> simp [recordMembers, recordReg, FieldName.reg]

theorem recordMembers_unique (r : RegRecord) :
    ∀ m ∈ recordMembers r, ∀ m' ∈ recordMembers r, m.1 = m'.1 → m = m' := by
  cases r <;> simp [recordMembers]

theorem recordMembers_complete (r : RegRecord) (f : FieldName) (hf : f.reg = recordReg r) :
    ∃ m ∈ recordMembers r, m.1 = f := by
  cases r <;> cases f <;> simp [recordReg, FieldName.reg] at hf <;> simp [recordMembers]

/-- The bits of a re-encoded record that a member's field covers (R178). -/
theorem encodeRecord_member {l : FieldLayout} (h : l.wf = true) (r : RegRecord) {m : FieldName × RegValue}
    (hm : m ∈ recordMembers r) (j : Nat) (hc : Covers (l.slot m.1) j) :
    (encodeRecord l r).getLsbD j = m.2.getLsbD (j - (l.slot m.1).lsb) := by
  refine foldl_insert_member h _ _ j hm hc fun m' hm' hc' => recordMembers_unique r _ hm' _ hm ?_
  exact FieldLayout.covers_unique h ((recordMembers_reg r _ hm').trans (recordMembers_reg r _ hm).symm) hc' hc

/-- The bits of a re-encoded record that no field covers (R178). -/
theorem encodeRecord_reserved {l : FieldLayout} (h : l.wf = true) (r : RegRecord) (j : Nat)
    (hn : ∀ f : FieldName, f.reg = recordReg r → ¬ Covers (l.slot f) j) :
    (encodeRecord l r).getLsbD j = (recordRsvd r).getLsbD j := by
  rw [encodeRecord, foldl_insert_other h _ _ j fun m hm => hn _ (recordMembers_reg r m hm), reservedBits_free h _ hn]

@[simp] theorem recordReg_decodeRecord (l : FieldLayout) (r : Reg) (v : RegValue) :
    recordReg (decodeRecord l r v) = r := by cases r <;> rfl

@[simp] theorem recordRsvd_decodeRecord (l : FieldLayout) (r : Reg) (v : RegValue) :
    recordRsvd (decodeRecord l r v) = reservedBits l r v := by cases r <;> rfl

/-- Every member of a decoded record is its field as read (R174 to R177). -/
theorem recordMembers_decodeRecord {l : FieldLayout} (h : l.wf = true) (r : Reg) (v : RegValue) :
    ∀ m ∈ recordMembers (decodeRecord l r v), m.2 = extractField l v m.1 := by
  have hf : ∀ f : FieldName, f.isFlag = true → flagCode (extractFlag l v f) = extractField l v f :=
    fun f hf => flagCode_extractFlag h v hf
  cases r <;>
    simp [decodeRecord, decodeSr1, decodeSr2, decodeCr1, decodeCr2, recordMembers] <;>
    (repeat' constructor) <;> exact hf _ rfl

/-- The packed FaultStatus, bit by bit (R179). -/
theorem packFaultStatus_getLsbD (l : FieldLayout) (v1 v2 : RegValue) (j : Nat) :
    (packFaultStatus l v1 v2).getLsbD j =
      if j < 11 then v1.getLsbD j
      else if j = 11 then (extractField l v2 .gvddOv).getLsbD 0
      else decide (j < 16) && (extractField l v2 .deviceId).getLsbD (j - 12) := by
  unfold packFaultStatus
  rw [BitVec.getLsbD_append, BitVec.getLsbD_append, BitVec.getLsbD_extractLsb', BitVec.getLsbD_extractLsb']
  rcases (by omega : j < 11 ∨ j = 11 ∨ 11 < j) with h | rfl | h
  · simp [h]
  · simp
  · rw [if_neg (by omega), if_neg (by omega), if_neg (by omega), if_neg (by omega),
      show j - 11 - 1 = j - 12 by omega, Nat.zero_add]
    congr 1
    exact decide_eq_decide.2 (by omega)

end Sys2Proof.Machine
end

