-- ==== Sys2Proof/Laws/Words.lean ====
section
/-! SUPPORT. The fields of a request word, and what the decoder selects by them. -/
namespace Sys2Proof

/-- The bits of a request word (R96). -/
theorem packRequest_getLsbD (op : BitVec 5) (addr : Addr) (a b : RegValue) (j : Nat) :
    (packRequest op addr a b).getLsbD j =
      if j < 11 then b.getLsbD j else if j < 22 then a.getLsbD (j - 11)
      else if j < 26 then addr.getLsbD (j - 22) else op.getLsbD (j - 26) := by
  simp only [packRequest, BitVec.getLsbD_append]
  rcases (by omega : j < 11 ∨ (11 ≤ j ∧ j < 22) ∨ (22 ≤ j ∧ j < 26) ∨ 26 ≤ j) with h | h | h | h
  · simp only [h, if_true]
  · simp only [show ¬ j < 11 by omega, show j - 11 < 11 by omega, h.2, if_true, if_false]
  · simp only [show ¬ j < 11 by omega, show ¬ j - 11 < 11 by omega, show ¬ j < 22 by omega,
      show j - 11 - 11 < 4 by omega, h.2, if_true, if_false]
    congr 1
  · simp only [show ¬ j < 11 by omega, show ¬ j - 11 < 11 by omega, show ¬ j < 22 by omega,
      show ¬ j - 11 - 11 < 4 by omega, show ¬ j < 26 by omega, if_false]
    rw [show j - 11 - 11 - 4 = j - 26 by omega]
    split
    · rfl
    · have : op.getLsbD (j - 26) = false := BitVec.getLsbD_of_ge _ _ (by omega)
      simp [this]

@[simp] theorem packRequest_rsv (op : BitVec 5) (addr : Addr) (a b : RegValue) :
    (packRequest op addr a b)[31] = false := by
  have := packRequest_getLsbD op addr a b 31
  simpa using this

@[simp] theorem reqOp_packRequest (op : BitVec 5) (addr : Addr) (a b : RegValue) :
    reqOp (packRequest op addr a b) = op := by
  apply BitVec.eq_of_getLsbD_eq
  intro j hj
  rw [reqOp, BitVec.getLsbD_extractLsb', packRequest_getLsbD, if_neg (by omega), if_neg (by omega),
    if_neg (by omega)]
  simp [hj]

@[simp] theorem reqAddr_packRequest (op : BitVec 5) (addr : Addr) (a b : RegValue) :
    reqAddr (packRequest op addr a b) = addr := by
  apply BitVec.eq_of_getLsbD_eq
  intro j hj
  rw [reqAddr, BitVec.getLsbD_extractLsb', packRequest_getLsbD, if_neg (by omega), if_neg (by omega),
    if_pos (by omega)]
  simp [hj]

@[simp] theorem reqA_packRequest (op : BitVec 5) (addr : Addr) (a b : RegValue) :
    reqA (packRequest op addr a b) = a := by
  apply BitVec.eq_of_getLsbD_eq
  intro j hj
  rw [reqA, BitVec.getLsbD_extractLsb', packRequest_getLsbD, if_neg (by omega), if_pos (by omega)]
  simp [hj]

@[simp] theorem reqB_packRequest (op : BitVec 5) (addr : Addr) (a b : RegValue) :
    reqB (packRequest op addr a b) = b := by
  apply BitVec.eq_of_getLsbD_eq
  intro j hj
  rw [reqB, BitVec.getLsbD_extractLsb', packRequest_getLsbD, if_pos (by omega)]
  simp [hj]

/-- Concatenation, as a number. -/
theorem append_toNat {v w : Nat} (x : BitVec v) (y : BitVec w) : (x ++ y).toNat = x.toNat * 2 ^ w + y.toNat := by
  rw [BitVec.toNat_append, ← Nat.shiftLeft_add_eq_or_of_lt y.isLt, Nat.shiftLeft_eq]

/-- The fields of a request word put together again, where RSV = 0 (R96). -/
theorem packRequest_fields {w : ReqWord} (h : w.getLsbD 31 = false) :
    packRequest (reqOp w) (reqAddr w) (reqA w) (reqB w) = w := by
  apply BitVec.eq_of_getLsbD_eq
  intro j hj
  rw [packRequest_getLsbD, reqOp, reqAddr, reqA, reqB, BitVec.getLsbD_extractLsb', BitVec.getLsbD_extractLsb',
    BitVec.getLsbD_extractLsb', BitVec.getLsbD_extractLsb']
  rcases (by omega : j < 11 ∨ (11 ≤ j ∧ j < 22) ∨ (22 ≤ j ∧ j < 26) ∨ (26 ≤ j ∧ j < 31) ∨ j = 31) with
    h' | h' | h' | h' | rfl
  · simp [h']
  · simp only [show ¬ j < 11 by omega, h'.2, if_true, if_false, show j - 11 < 11 by omega,
      show 11 + (j - 11) = j by omega, decide_true, Bool.true_and]
  · simp only [show ¬ j < 11 by omega, show ¬ j < 22 by omega, h'.2, if_true, if_false, show j - 22 < 4 by omega,
      show 22 + (j - 22) = j by omega, decide_true, Bool.true_and]
  · simp only [show ¬ j < 11 by omega, show ¬ j < 22 by omega, show ¬ j < 26 by omega, if_false,
      show j - 26 < 5 by omega, show 26 + (j - 26) = j by omega, decide_true, Bool.true_and]
  · simpa using h.symm

/-- RSV and the rest of a word with RSV = 1 (R100). -/
theorem rsvWord_fields (rest : BitVec 31) :
    (show ReqWord from 1#1 ++ rest).getLsbD 31 = true ∧ (show ReqWord from 1#1 ++ rest).extractLsb' 0 31 = rest := by
  have hb (j : Nat) : (show ReqWord from 1#1 ++ rest).getLsbD j =
      if j < 31 then rest.getLsbD j else (1#1).getLsbD (j - 31) := BitVec.getLsbD_append
  refine ⟨by rw [hb, if_neg (by omega)]; decide, ?_⟩
  apply BitVec.eq_of_getLsbD_eq
  intro j hj
  rw [BitVec.getLsbD_extractLsb', Nat.zero_add, hb, if_pos hj]
  simp [hj]

end Sys2Proof
end

