-- ==== Sys2Proof/Laws/PerInstr.lean ====
section
/-! SUPPORT. One statement per instruction of the table: the word of an instruction whose operands are legal has the
fixed bits of its own row of spec/opcode_table.json (its match under its mask). -/
namespace Sys2Proof.Laws.RowBits

/-- The mask and the match of an instruction's row, for the rows of 32 bits. -/
def requestRow : Instr → Option (ReqWord × ReqWord)
  | .rawRead _ _ _ => some (0xFC3FFFFF, 0x00000000)
  | .rawWrite _ _ _ => some (0xFC3FF800, 0x04000000)
  | .rawModify _ _ _ => some (0xFC000000, 0x08000000)
  | .hasFault _ _ _ => some (0xFFFFFFFF, 0x0C000000)
  | .getDeviceId _ _ _ => some (0xFFFFFFFF, 0x10000000)
  | .getFaultStatus _ _ _ => some (0xFFFFFFFF, 0x14000000)
  | .setOcAdj _ _ _ => some (0xFFFFF800, 0x18000000)
  | .setOcpMode _ _ _ => some (0xFFFFF800, 0x1C000000)
  | .setPwmMode _ _ _ => some (0xFFFFF800, 0x20000000)
  | .setGateReset _ _ _ => some (0xFFFFF800, 0x24000000)
  | .setGateCurrent _ _ _ => some (0xFFFFF800, 0x28000000)
  | .setGain _ _ _ => some (0xFFFFF800, 0x2C000000)
  | .setOctwMode _ _ _ => some (0xFFFFF800, 0x30000000)
  | .setDcCalCh1 _ _ _ => some (0xFFFFF800, 0x34000000)
  | .setDcCalCh2 _ _ _ => some (0xFFFFF800, 0x38000000)
  | .setOcToff _ _ _ => some (0xFFFFF800, 0x3C000000)
  | .unassigned _ _ _ _ => some (0xC0000000, 0x40000000)
  | .rsvSet _ => some (0x80000000, 0x80000000)
  | _ => none

/-- The mask and the match of an instruction's row, for the rows of 16 bits. -/
def frameRow : Instr → Option (Frame × Frame)
  | .writeFrame _ _ => some (0x8000, 0x0000)
  | .readFrame _ => some (0x87FF, 0x8000)
  | .responseFrame _ => some (0x0000, 0x0000)
  | _ => none

/-- An encoded word has the fixed bits of the instruction's row. -/
def matchesRow (i : Instr) : Encoded → Prop
  | .request w => ∃ p, requestRow i = some p ∧ w &&& p.1 = p.2
  | .command f => ∃ p, frameRow i = some p ∧ f &&& p.1 = p.2
  | .response f => ∃ p, frameRow i = some p ∧ f &&& p.1 = p.2

/-- The word of an instruction with legal operands is a word of its row, under every configuration. -/
def Statement (i : Instr) : Prop :=
  ∀ (c : Config) (e : Encoded), i.wellFormed c = true → encode i = some e → matchesRow i e

/-- A row's mask, field by field: the bit RSV is always a fixed one. -/
def maskRequest (o : BitVec 5) (x : Addr) (y z : RegValue) : ReqWord := 1#1 ++ o ++ x ++ y ++ z

/-- The word of a request under a mask, field by field. -/
theorem packRequest_and (op o : BitVec 5) (addr x : Addr) (a y b z : RegValue) :
    packRequest op addr a b &&& maskRequest o x y z = packRequest (op &&& o) (addr &&& x) (a &&& y) (b &&& z) := by
  apply BitVec.eq_of_getLsbD_eq
  intro j _
  rw [BitVec.getLsbD_and, packRequest_getLsbD, packRequest_getLsbD, maskRequest]
  simp only [BitVec.getLsbD_append, BitVec.getLsbD_and]
  rcases (by omega : j < 11 ∨ (11 ≤ j ∧ j < 22) ∨ (22 ≤ j ∧ j < 26) ∨ (26 ≤ j ∧ j < 31) ∨ 31 ≤ j) with
    h | h | h | h | h
  · simp only [h, if_true]
  · simp only [show ¬ j < 11 by omega, show j - 11 < 11 by omega, h.2, if_true, if_false]
  · simp only [show ¬ j < 11 by omega, show ¬ j - 11 < 11 by omega, show ¬ j < 22 by omega,
      show j - 22 < 4 by omega, show j - 11 - 11 = j - 22 by omega, h.2, if_true, if_false]
  · simp only [show ¬ j < 11 by omega, show ¬ j - 11 < 11 by omega, show ¬ j < 22 by omega,
      show ¬ j - 11 - 11 < 4 by omega, show ¬ j < 26 by omega, show j - 26 < 5 by omega,
      show j - 11 - 11 - 4 = j - 26 by omega, if_true, if_false]
  · simp only [show ¬ j < 11 by omega, show ¬ j < 22 by omega, show ¬ j < 26 by omega,
      BitVec.getLsbD_of_ge op (j - 26) (by omega), if_false, Bool.false_and]

/-- A request whose fields agree with a row's under its mask is a word of the row. -/
theorem request_matches {i : Instr} {op : BitVec 5} {addr : Addr} {a b : RegValue}
    (o o' : BitVec 5) (x x' : Addr) (y y' z z' : RegValue)
    {m p : ReqWord} (hr : requestRow i = some (m, p)) (hm : m = maskRequest o x y z)
    (hp : p = packRequest o' x' y' z')
    (h1 : op &&& o = o') (h2 : addr &&& x = x') (h3 : a &&& y = y') (h4 : b &&& z = z') :
    matchesRow i (.request (packRequest op addr a b)) :=
  ⟨_, hr, by rw [hm, hp, packRequest_and, h1, h2, h3, h4]⟩

theorem and_ones_op (op : BitVec 5) : op &&& 31#5 = op := by revert op; decide

theorem rawRead (addr : Addr) (a b : RegValue) : Statement (.rawRead addr a b) := by
  intro c e hw he
  obtain rfl := Option.some.inj he
  obtain ⟨rfl, rfl⟩ : a = 0#11 ∧ b = 0#11 := by simpa [Instr.wellFormed] using hw
  exact request_matches 31#5 0x00#5 0#4 0#4 0x7FF#11 0#11 0x7FF#11 0#11
    rfl (by decide) (by decide) (by decide) (by simp) (by decide) (by decide)

theorem rawWrite (addr : Addr) (a b : RegValue) : Statement (.rawWrite addr a b) := by
  intro c e hw he
  obtain rfl := Option.some.inj he
  obtain rfl : a = 0#11 := by simpa [Instr.wellFormed] using hw
  exact request_matches 31#5 0x01#5 0#4 0#4 0x7FF#11 0#11 0#11 0#11
    rfl (by decide) (by decide) (by decide) (by simp) (by decide) (by simp)

theorem rawModify (addr : Addr) (a b : RegValue) : Statement (.rawModify addr a b) := by
  intro c e _ he
  obtain rfl := Option.some.inj he
  exact request_matches 31#5 0x02#5 0#4 0#4 0#11 0#11 0#11 0#11
    rfl (by decide) (by decide) (by decide) (by simp) (by simp) (by simp)

/-- A query's row fixes every bit (R98). -/
theorem query_matches {i : Instr} {op : BitVec 5} {addr : Addr} {a b : RegValue} {p : ReqWord}
    (hr : requestRow i = some (0xFFFFFFFF, p)) (hp : p = packRequest op 0#4 0#11 0#11)
    (hw : noOperands addr a b = true) : matchesRow i (.request (packRequest op addr a b)) := by
  obtain ⟨⟨rfl, rfl⟩, rfl⟩ : (addr = 0#4 ∧ a = 0#11) ∧ b = 0#11 := by simpa [noOperands] using hw
  exact request_matches 31#5 op 15#4 0#4 0x7FF#11 0#11 0x7FF#11 0#11 hr (by decide) hp
    (and_ones_op op) (by decide) (by decide) (by decide)

theorem hasFault (addr : Addr) (a b : RegValue) : Statement (.hasFault addr a b) := by
  intro c e hw he
  obtain rfl := Option.some.inj he
  exact query_matches rfl (by decide) hw

theorem getDeviceId (addr : Addr) (a b : RegValue) : Statement (.getDeviceId addr a b) := by
  intro c e hw he
  obtain rfl := Option.some.inj he
  exact query_matches rfl (by decide) hw

theorem getFaultStatus (addr : Addr) (a b : RegValue) : Statement (.getFaultStatus addr a b) := by
  intro c e hw he
  obtain rfl := Option.some.inj he
  exact query_matches rfl (by decide) hw

/-- A setter's row leaves B free (R98). -/
theorem setter_matches {i : Instr} {c : Config} {f : FieldName} {op : BitVec 5} {addr : Addr} {a b : RegValue}
    {p : ReqWord} (hr : requestRow i = some (0xFFFFF800, p)) (hp : p = packRequest op 0#4 0#11 0#11)
    (hw : setterOperands c f addr a b = true) : matchesRow i (.request (packRequest op addr a b)) := by
  obtain ⟨⟨rfl, rfl⟩, -⟩ : (addr = 0#4 ∧ a = 0#11) ∧ f.admits c b = true := by simpa [setterOperands] using hw
  exact request_matches 31#5 op 15#4 0#4 0x7FF#11 0#11 0#11 0#11 hr (by decide) hp
    (and_ones_op op) (by decide) (by decide) (by simp)

theorem setOcAdj (addr : Addr) (a b : RegValue) : Statement (.setOcAdj addr a b) := by
  intro c e hw he
  obtain rfl := Option.some.inj he
  exact setter_matches rfl (by decide) hw

theorem setOcpMode (addr : Addr) (a b : RegValue) : Statement (.setOcpMode addr a b) := by
  intro c e hw he
  obtain rfl := Option.some.inj he
  exact setter_matches rfl (by decide) hw

theorem setPwmMode (addr : Addr) (a b : RegValue) : Statement (.setPwmMode addr a b) := by
  intro c e hw he
  obtain rfl := Option.some.inj he
  exact setter_matches rfl (by decide) hw

theorem setGateReset (addr : Addr) (a b : RegValue) : Statement (.setGateReset addr a b) := by
  intro c e hw he
  obtain rfl := Option.some.inj he
  exact setter_matches rfl (by decide) hw

theorem setGateCurrent (addr : Addr) (a b : RegValue) : Statement (.setGateCurrent addr a b) := by
  intro c e hw he
  obtain rfl := Option.some.inj he
  exact setter_matches rfl (by decide) hw

theorem setGain (addr : Addr) (a b : RegValue) : Statement (.setGain addr a b) := by
  intro c e hw he
  obtain rfl := Option.some.inj he
  exact setter_matches rfl (by decide) hw

theorem setOctwMode (addr : Addr) (a b : RegValue) : Statement (.setOctwMode addr a b) := by
  intro c e hw he
  obtain rfl := Option.some.inj he
  exact setter_matches rfl (by decide) hw

theorem setDcCalCh1 (addr : Addr) (a b : RegValue) : Statement (.setDcCalCh1 addr a b) := by
  intro c e hw he
  obtain rfl := Option.some.inj he
  exact setter_matches rfl (by decide) hw

theorem setDcCalCh2 (addr : Addr) (a b : RegValue) : Statement (.setDcCalCh2 addr a b) := by
  intro c e hw he
  obtain rfl := Option.some.inj he
  exact setter_matches rfl (by decide) hw

theorem setOcToff (addr : Addr) (a b : RegValue) : Statement (.setOcToff addr a b) := by
  intro c e hw he
  obtain rfl := Option.some.inj he
  exact setter_matches rfl (by decide) hw

theorem unassigned_op (opLow : BitVec 4) : (1#1 ++ opLow) &&& 16#5 = 16#5 := by revert opLow; decide

theorem unassigned (opLow : BitVec 4) (addr : Addr) (a b : RegValue) : Statement (.unassigned opLow addr a b) := by
  intro c e _ he
  obtain rfl := Option.some.inj he
  exact request_matches 16#5 16#5 0#4 0#4 0#11 0#11 0#11 0#11
    rfl (by decide) (by decide) (unassigned_op opLow) (by simp) (by simp) (by simp)

theorem rsvSet (rest : BitVec 31) : Statement (.rsvSet rest) := by
  intro c e _ he
  obtain rfl := Option.some.inj he
  refine ⟨_, rfl, ?_⟩
  apply BitVec.eq_of_getLsbD_eq
  intro j hj
  have hm : (0x80000000 : ReqWord) = 1#1 ++ 0#31 := by decide
  rw [hm]
  simp only [BitVec.getLsbD_and, BitVec.getLsbD_append]
  split
  · simp
  · simp

theorem writeFrame (address value : Nat) : Statement (.writeFrame address value) := by
  intro c e _ he
  simp only [encode, Machine.encodeWrite] at he
  split at he
  · simp at he
  · obtain rfl := Option.some.inj he
    refine ⟨_, rfl, ?_⟩
    apply BitVec.eq_of_getLsbD_eq
    intro j hj
    have hm : (0x8000 : Frame) = Machine.packRead 0 := by decide
    rw [hm, BitVec.getLsbD_and, Machine.packWrite_getLsbD, Machine.packRead_getLsbD]
    rcases (by omega : j < 11 ∨ (11 ≤ j ∧ j < 15) ∨ j = 15) with h | h | rfl
    · simp [h]
    · simp [show ¬ j < 11 by omega, h.2]
    · simp

theorem readFrame (address : Nat) : Statement (.readFrame address) := by
  intro c e _ he
  simp only [encode, Machine.encodeRead] at he
  split at he
  · simp at he
  · obtain rfl := Option.some.inj he
    refine ⟨_, rfl, ?_⟩
    generalize BitVec.ofNat 4 address = a
    revert a
    decide

theorem responseFrame (frame : Frame) : Statement (.responseFrame frame) := by
  intro c e _ he
  obtain rfl := Option.some.inj he
  exact ⟨_, rfl, by simp⟩

theorem decodeCommand (frame : Frame) : Statement (.decodeCommand frame) := by
  intro c e _ he
  simp [encode] at he

theorem toBytes (frame : Frame) : Statement (.toBytes frame) := by
  intro c e _ he
  simp [encode] at he

theorem fromBytes (b0 b1 : Byte) : Statement (.fromBytes b0 b1) := by
  intro c e _ he
  simp [encode] at he

theorem extract (v : RegValue) (f : FieldName) : Statement (.extract v f) := by
  intro c e _ he
  simp [encode] at he

theorem insert (v : RegValue) (f : FieldName) (code : RegValue) : Statement (.insert v f code) := by
  intro c e _ he
  simp [encode] at he

theorem decodeSr1 (v : RegValue) : Statement (.decodeSr1 v) := by
  intro c e _ he
  simp [encode] at he

theorem decodeSr2 (v : RegValue) : Statement (.decodeSr2 v) := by
  intro c e _ he
  simp [encode] at he

theorem decodeCr1 (v : RegValue) : Statement (.decodeCr1 v) := by
  intro c e _ he
  simp [encode] at he

theorem decodeCr2 (v : RegValue) : Statement (.decodeCr2 v) := by
  intro c e _ he
  simp [encode] at he

theorem encodeR (r : RegRecord) : Statement (.encodeR r) := by
  intro c e _ he
  simp [encode] at he

theorem faultStatus (v1 v2 : RegValue) : Statement (.faultStatus v1 v2) := by
  intro c e _ he
  simp [encode] at he

theorem writeRegister (a : Addr) (v : RegValue) : Statement (.writeRegister a v) := by
  intro c e _ he
  simp [encode] at he

theorem readRegister (a : Addr) : Statement (.readRegister a) := by
  intro c e _ he
  simp [encode] at he

theorem modifyRegister (a : Addr) (mask bits : RegValue) : Statement (.modifyRegister a mask bits) := by
  intro c e _ he
  simp [encode] at he

end Sys2Proof.Laws.RowBits
end

