-- ==== Sys2Proof/Laws/Sequencer.lean ====
section
/-! SUPPORT. What running an operation gives, one lemma per shape of operation: a write, a read, two reads, a
read-modify-write; with every end an exchange can bring. The statements about instructions cite these. -/
namespace Sys2Proof.Machine
open Sys2Proof.Safety

/-! ### How an operation's end reads -/

theorem ended_finish {s t : State} {e : Env} {l : List TraceEntry} (d : BitVec 16) (hc : SameContext s t)
    (he : t.env = e) (ht : t.trace = s.trace ++ l) : Ended s (t.finish d) .ok d e l :=
  ⟨rfl, rfl, rfl, rfl, he, ht, ⟨hc.cfg, hc.ownsBus, hc.inputs, hc.out⟩⟩

theorem ended_raise {s t : State} {e : Env} {l : List TraceEntry} (err : OpError) (hc : SameContext s t)
    (he : t.env = e) (ht : t.trace = s.trace ++ l) : Ended s (t.raise err) (errorStatus err) 0#16 e l :=
  ⟨rfl, rfl, rfl, rfl, he, ht, ⟨hc.cfg, hc.ownsBus, hc.inputs, hc.out⟩⟩

/-- The end of a write: FRAME_ERROR under WRITE_FE_CHECK, OK else (R141, R142). -/
theorem ended_write {s t : State} {e : Env} {l : List TraceEntry} {c : Config} {rx : Frame} (hc : SameContext s t)
    (he : t.env = e) (ht : t.trace = s.trace ++ l) :
    Ended s (if writeFlagged c rx then t.raise .frameError else t.finish 0#16)
      (if c.writeFeCheck && rx.getLsbD 15 then .frameError else .ok) 0#16 e l := by
  cases h : writeFlagged c rx <;> simp only [writeFlagged, frameError] at h <;>
    simp only [h, Bool.false_eq_true, if_true, if_false]
  · exact ended_finish _ hc he ht
  · exact ended_raise .frameError hc he ht

/-- An operation's state after its exchanges has the context of the state it was accepted in. -/
theorem sameContext_accept (s : State) (op : Operation) (addr : Addr) (a b : RegValue) :
    SameContext s (s.accept op addr a b) := ⟨rfl, rfl, rfl, rfl⟩

/-! ### Registers, values and plans of an operation -/

theorem State.target_of_field {op : Operation} {f : FieldName} (h : op.field = some f) (s : State) (k : Nat) :
    s.target op k = s.cfg.regAddr.of f.reg := by
  simp [State.target, h]

/-- A read-modify-write keeps to one register, writes img, and computes it as R181 says. -/
theorem modify_shape {op : Operation} (hp : op.plan = [.readFirst, .readSecond, .write]) (s : State) :
    (∀ k, s.target op k = s.target op 0) ∧ s.writeValue op = s.img ∧
      s.afterRead op 1 = { s with img := modifyImage s.img (s.mutation op).1 (s.mutation op).2 } := by
  cases op <;> simp only [Operation.plan, reduceCtorEq, List.cons.injEq, and_false, List.cons_ne_nil] at hp <;>
    exact ⟨fun _ => rfl, rfl, rfl⟩

/-- Every operation whose plan begins with a read reads one register with both frames. -/
theorem read_target {op : Operation} {rest : List Stage} (hp : op.plan = .readFirst :: .readSecond :: rest)
    (s : State) : s.target op 1 = s.target op 0 := by
  cases op <;> rfl

/-- What the register of an operation depends on. -/
theorem State.target_congr {s t : State} (hcfg : t.cfg = s.cfg) (hreq : t.req = s.req) (op : Operation) (k : Nat) :
    t.target op k = s.target op k := by
  simp only [State.target, hcfg, hreq]

theorem State.writeValue_congr {s t : State} (himg : t.img = s.img) (hreq : t.req = s.req) (op : Operation) :
    t.writeValue op = s.writeValue op := by
  simp only [State.writeValue, himg, hreq]

theorem State.mutation_congr {s t : State} (hcfg : t.cfg = s.cfg) (hreq : t.req = s.req) (op : Operation) :
    t.mutation op = s.mutation op := by
  simp only [State.mutation, hcfg, hreq]

/-! ### A plain write -/

theorem State.run_write {s : State} {op : Operation} {rx : Frame} {e : Env} (hs : s.seq = .busy op 0)
    (hp : op.plan = [.write])
    (x : s.env.exchange (toBytes (packWrite (s.target op 0) (s.writeValue op))) = (.reply (toBytes rx), e)) :
    s.advance 4 =
      let t := s.received (packWrite (s.target op 0) (s.writeValue op)) rx e
      if writeFlagged s.cfg rx then t.raise .frameError else t.finish 0#16 := by
  rw [State.advance_reply (st := .write) hs (by rw [hp]; rfl) x 3, State.advance_idle]
  · rfl
  · simp only [State.onReply]
    split <;> rfl

/-! ### A read as the whole operation, and as a first part -/

/-- The block after a read's second reply was kept (R143). -/
def State.afterTwoKept (s : State) (op : Operation) (k : Nat) (rx1 rx2 : Frame) (e1 e2 : Env) : State :=
  { s.afterTwo op k rx1 rx2 e1 e2 with img := rx2.extractLsb' 0 11 }

section
variable (s : State) (op : Operation) (k : Nat) (rx1 rx2 : Frame) (e1 e2 : Env)
@[simp] theorem State.afterTwoKept_cfg : (s.afterTwoKept op k rx1 rx2 e1 e2).cfg = s.cfg := rfl
@[simp] theorem State.afterTwoKept_req : (s.afterTwoKept op k rx1 rx2 e1 e2).req = s.req := rfl
@[simp] theorem State.afterTwoKept_img : (s.afterTwoKept op k rx1 rx2 e1 e2).img = rx2.extractLsb' 0 11 := rfl
@[simp] theorem State.afterTwoKept_s1 : (s.afterTwoKept op k rx1 rx2 e1 e2).s1 = s.s1 := rfl
@[simp] theorem State.afterTwoKept_res : (s.afterTwoKept op k rx1 rx2 e1 e2).res = s.res := rfl
@[simp] theorem State.afterTwoKept_env : (s.afterTwoKept op k rx1 rx2 e1 e2).env = e2 := rfl
@[simp] theorem State.afterTwoKept_trace : (s.afterTwoKept op k rx1 rx2 e1 e2).trace =
    s.trace ++ [.completed (packRead (s.target op k)) rx1, .completed (packRead (s.target op (k + 1))) rx2] := by
  simp [State.afterTwoKept, State.afterTwo]
theorem State.afterTwoKept_context : SameContext s (s.afterTwoKept op k rx1 rx2 e1 e2) := ⟨rfl, rfl, rfl, rfl⟩
end

theorem State.afterTwoKept_seq {s : State} {op : Operation} {k : Nat} (hs : s.seq = .busy op k) (rx1 rx2 : Frame)
    (e1 e2 : Env) : (s.afterTwoKept op k rx1 rx2 e1 e2).seq = .busy op (k + 2) := by
  simp [State.afterTwoKept, State.afterTwo, hs]

/-- A read whose second reply is not flagged goes on with its data (R143, R145). -/
theorem State.run_read_kept {s : State} {op : Operation} {k : Nat} {rx1 rx2 : Frame} {e1 e2 : Env}
    (hs : s.seq = .busy op k) (h1 : op.plan[k]? = some .readFirst) (h2 : op.plan[k + 1]? = some .readSecond)
    (x1 : s.env.exchange (toBytes (packRead (s.target op k))) = (.reply (toBytes rx1), e1))
    (x2 : e1.exchange (toBytes (packRead (s.target op (k + 1)))) = (.reply (toBytes rx2), e2))
    (hf : rx2.getLsbD 15 = false) (n : Nat) :
    s.advance (n + 2) = ((s.afterTwoKept op k rx1 rx2 e1 e2).afterRead op (k + 1)).advance n := by
  rw [State.advance_read hs h1 h2 x1 x2]
  simp only [State.onReply, readFlagged, decodeResponse, frameError, hf, Bool.false_eq_true, if_false]
  rfl

/-- A read whose second reply is flagged ends the operation (R145). -/
theorem State.run_read_flagged {s : State} {op : Operation} {k : Nat} {rx1 rx2 : Frame} {e1 e2 : Env}
    (hs : s.seq = .busy op k) (h1 : op.plan[k]? = some .readFirst) (h2 : op.plan[k + 1]? = some .readSecond)
    (x1 : s.env.exchange (toBytes (packRead (s.target op k))) = (.reply (toBytes rx1), e1))
    (x2 : e1.exchange (toBytes (packRead (s.target op (k + 1)))) = (.reply (toBytes rx2), e2))
    (hf : rx2.getLsbD 15 = true) (n : Nat) :
    s.advance (n + 2) = (s.afterTwo op k rx1 rx2 e1 e2).raise .frameError := by
  rw [State.advance_read hs h1 h2 x1 x2]
  simp only [State.onReply, readFlagged, decodeResponse, frameError, hf, if_true]
  exact State.advance_idle rfl _

/-- The second exchange of a read that fails, or has not ended, after the first one completed. -/
theorem State.run_read_second {s : State} {op : Operation} {k : Nat} {rx1 : Frame} {e1 : Env}
    (hs : s.seq = .busy op k) (h1 : op.plan[k]? = some .readFirst)
    (x1 : s.env.exchange (toBytes (packRead (s.target op k))) = (.reply (toBytes rx1), e1)) (n : Nat) :
    s.advance (n + 1) = (s.received (packRead (s.target op k)) rx1 e1).advance n :=
  State.advance_reply hs h1 x1 n

/-! ### GET_FAULT_STATUS -/

/-- GET_FAULT_STATUS after its SR1 read was kept: BUSY with two exchanges completed, the SR1 value in s1, and the SR2 read
to come (R203). -/
theorem State.run_firstStatus {s : State} {rx1 rx2 : Frame} {e : Env}
    (hc : Completes s.env (readFrames s.cfg.regAddr.sr1) [rx1, rx2] e) (hf : rx2.getLsbD 15 = false) :
    ∃ u : State, (s.accept .getFaultStatus 0 0 0).advance 4 = u.advance 2 ∧ u.cfg = s.cfg ∧
      u.s1 = rx2.extractLsb' 0 11 ∧ SameContext s u ∧ u.env = e ∧ u.seq = .busy .getFaultStatus 2 ∧
      (∀ k, 2 ≤ k → u.target .getFaultStatus k = s.cfg.regAddr.sr2) ∧
      u.trace = s.trace ++ completedTrace (readFrames s.cfg.regAddr.sr1) [rx1, rx2] := by
  obtain ⟨e1, x1, e2, x2, rfl⟩ := hc
  refine ⟨_, State.run_read_kept (s := s.accept .getFaultStatus 0 0 0) (op := .getFaultStatus) (k := 0) rfl rfl rfl x1
    x2 hf 2, rfl, rfl, ⟨rfl, rfl, rfl, rfl⟩, rfl, rfl, fun k hk => ?_, ?_⟩
  · simp [State.target, Operation.field, RegAddrs.of, State.afterRead, Nat.not_lt.2 hk]
  · simp [State.afterRead, State.target, completedTrace, readFrames, RegAddrs.of, Operation.field]

/-! ### A read-modify-write -/

/-- The block before the write-back of a read-modify-write (R181). -/
def State.modified (s : State) (op : Operation) (rx1 rx2 : Frame) (e1 e2 : Env) : State :=
  { s.afterTwoKept op 0 rx1 rx2 e1 e2 with
    img := modifyImage (rx2.extractLsb' 0 11) (s.mutation op).1 (s.mutation op).2 }

/-- A read-modify-write whose read was kept goes on to its write-back, whatever the new image is (R182). -/
theorem State.run_modify_read {s : State} {op : Operation} {rx1 rx2 : Frame} {e1 e2 : Env} (hs : s.seq = .busy op 0)
    (hp : op.plan = [.readFirst, .readSecond, .write])
    (x1 : s.env.exchange (toBytes (packRead (s.target op 0))) = (.reply (toBytes rx1), e1))
    (x2 : e1.exchange (toBytes (packRead (s.target op 0))) = (.reply (toBytes rx2), e2))
    (hf : rx2.getLsbD 15 = false) :
    s.advance 4 = (s.modified op rx1 rx2 e1 e2).advance 2 ∧
      (s.modified op rx1 rx2 e1 e2).seq = .busy op 2 ∧
      (s.modified op rx1 rx2 e1 e2).frameFor op 2 .write =
        packWrite (s.target op 0) (modifyImage (rx2.extractLsb' 0 11) (s.mutation op).1 (s.mutation op).2) ∧
      (s.modified op rx1 rx2 e1 e2).trace =
        s.trace ++ [.completed (packRead (s.target op 0)) rx1, .completed (packRead (s.target op 0)) rx2] := by
  have ht : s.target op 1 = s.target op 0 := (modify_shape hp s).1 1
  refine ⟨?_, ?_, ?_, ?_⟩
  · rw [State.run_read_kept hs (by rw [hp]; rfl) (by rw [hp]; rfl) x1 (by rw [ht]; exact x2) hf 2]
    rw [(modify_shape hp _).2.2,
      State.mutation_congr (s := s) (t := s.afterTwoKept op 0 rx1 rx2 e1 e2) rfl rfl op]
    rfl
  · exact State.afterTwoKept_seq hs rx1 rx2 e1 e2
  · simp only [State.frameFor]
    rw [(modify_shape hp _).1 2, (modify_shape hp _).2.1, State.target_congr (s := s) (t := s.modified op rx1 rx2 e1 e2) rfl rfl]
    rfl
  · have := State.afterTwoKept_trace s op 0 rx1 rx2 e1 e2
    simp only [Nat.zero_add, ht] at this
    exact this

/-- A read-modify-write whose three exchanges complete (R181, R142). -/
theorem State.run_modify {s : State} {op : Operation} {rx1 rx2 rx3 : Frame} {e1 e2 e3 : Env} {new : RegValue}
    (hs : s.seq = .busy op 0) (hp : op.plan = [.readFirst, .readSecond, .write])
    (x1 : s.env.exchange (toBytes (packRead (s.target op 0))) = (.reply (toBytes rx1), e1))
    (x2 : e1.exchange (toBytes (packRead (s.target op 0))) = (.reply (toBytes rx2), e2))
    (hf : rx2.getLsbD 15 = false)
    (hnew : new = modifyImage (rx2.extractLsb' 0 11) (s.mutation op).1 (s.mutation op).2)
    (x3 : e2.exchange (toBytes (packWrite (s.target op 0) new)) = (.reply (toBytes rx3), e3)) :
    s.advance 4 =
      let t := (s.modified op rx1 rx2 e1 e2).received (packWrite (s.target op 0) new) rx3 e3
      if writeFlagged s.cfg rx3 then t.raise .frameError else t.finish 0#16 := by
  obtain ⟨h4, hseq, hfr, -⟩ := State.run_modify_read hs hp x1 x2 hf
  rw [← hnew] at hfr
  rw [h4, State.advance_reply (st := .write) hseq (by rw [hp]; rfl) (by rw [hfr]; exact x3) 1, hfr,
    State.advance_idle]
  · rfl
  · simp only [State.onReply]
    split <;> rfl

/-- A read-modify-write whose write-back fails (R246). -/
theorem State.run_modify_fails {s : State} {op : Operation} {rx1 rx2 : Frame} {c : TransportCause} {e1 e2 e3 : Env}
    {new : RegValue} (hs : s.seq = .busy op 0) (hp : op.plan = [.readFirst, .readSecond, .write])
    (x1 : s.env.exchange (toBytes (packRead (s.target op 0))) = (.reply (toBytes rx1), e1))
    (x2 : e1.exchange (toBytes (packRead (s.target op 0))) = (.reply (toBytes rx2), e2))
    (hf : rx2.getLsbD 15 = false)
    (hnew : new = modifyImage (rx2.extractLsb' 0 11) (s.mutation op).1 (s.mutation op).2)
    (x3 : e2.exchange (toBytes (packWrite (s.target op 0) new)) = (.fail c, e3)) :
    s.advance 4 =
      State.raise { s.modified op rx1 rx2 e1 e2 with
        env := e3
        trace := (s.modified op rx1 rx2 e1 e2).trace ++ [.failed (packWrite (s.target op 0) new) c] }
        (.transport c) := by
  obtain ⟨h4, hseq, hfr, -⟩ := State.run_modify_read hs hp x1 x2 hf
  rw [← hnew] at hfr
  rw [h4, State.advance_fail (st := .write) hseq (by rw [hp]; rfl) (by rw [hfr]; exact x3) 1, hfr]

end Sys2Proof.Machine
end

