-- ==== Sys2Proof/Laws/Runs.lean ====
section
/-! SUPPORT. What a whole run of an operation can do, whatever the environment answers: its trace, its end, the working
registers. -/
namespace Sys2Proof.Machine
open Sys2Proof.Safety

/-- A first exchange of a read is never a plan's last, a write always is; a read's second exchange is the last of a
plain query, and of no read-modify-write. -/
theorem Operation.plan_last {op : Operation} {k : Nat} {st : Stage} (hp : op.plan[k]? = some st) :
    (st = .readFirst → k + 1 < op.plan.length) ∧ (st = .write → k + 1 = op.plan.length) ∧
    (st = .readSecond →
      (op.plan = [.readFirst, .readSecond] ∧ k = 1) ∨ (op.plan = [.readFirst, .readSecond, .write] ∧ k = 1) ∨
      (op = .getFaultStatus ∧ (k = 1 ∨ k = 3))) := by
  cases op <;> rcases k with _ | _ | _ | _ | k <;> simp [Operation.plan] at hp ⊢ <;> subst hp <;> simp

/-- A reply is a step inside the operation, or its end: FRAME_ERROR, or OK at the last exchange of the plan. -/
theorem State.onReply_plan (s : State) (op : Operation) (k : Nat) (rx : Frame) {st : Stage}
    (hp : op.plan[k]? = some st) :
    (k + 1 < op.plan.length ∧ ∃ v w, s.onReply op k rx st = { s with img := v, s1 := w }) ∨
    (k + 1 = op.plan.length ∧ ∃ v d, s.onReply op k rx st = State.finish { s with img := v } d) ∨
    ((k + 1 = 2 ∨ k + 1 = op.plan.length) ∧ s.onReply op k rx st = s.raise .frameError) := by
  obtain ⟨h1, h2, h3⟩ := Operation.plan_last hp
  cases st with
  | readFirst => exact .inl ⟨h1 rfl, s.img, s.s1, rfl⟩
  | readSecond =>
    simp only [State.onReply]
    split
    · refine .inr (.inr ⟨?_, rfl⟩)
      obtain ⟨-, rfl⟩ | ⟨-, rfl⟩ | ⟨rfl, rfl | rfl⟩ := h3 rfl
      · exact .inl rfl
      · exact .inl rfl
      · exact .inl rfl
      · exact .inr rfl
    · obtain ⟨hpl, rfl⟩ | ⟨hpl, rfl⟩ | ⟨rfl, rfl | rfl⟩ := h3 rfl
      · refine .inr (.inl ⟨by rw [hpl]; rfl, ?_⟩)
        cases op <;> simp [Operation.plan] at hpl <;> exact ⟨_, _, rfl⟩
      · refine .inl ⟨by rw [hpl]; decide, ?_⟩
        cases op <;> simp [Operation.plan] at hpl <;> exact ⟨_, _, rfl⟩
      · exact .inl ⟨by decide, _, _, rfl⟩
      · exact .inr (.inl ⟨rfl, _, _, rfl⟩)
  | write =>
    simp only [State.onReply]
    split
    · exact .inr (.inr ⟨.inr (h2 rfl), rfl⟩)
    · exact .inr (.inl ⟨h2 rfl, s.img, _, rfl⟩)

/-- A trace entry that is a completed exchange. -/
def isCompleted : TraceEntry → Bool
  | .completed _ _ => true
  | .failed _ _ => false

/-- The ends of a run of operation op from exchange k on, with the exchanges l made. -/
inductive RunEnd (s t : State) (op : Operation) (k : Nat) (l : List TraceEntry) : Prop where
  /-- Still in progress. -/
  | waiting (seq : t.seq = .busy op (k + l.length)) (bound : k + l.length < op.plan.length) (res : t.res = s.res)
      (all : l.all isCompleted = true)
  /-- Ended OK: the last exchange of the plan completed. -/
  | ok (seq : t.seq = .idle) (last : k + l.length = op.plan.length) (all : l.all isCompleted = true)
      (valid : t.res.valid = true) (status : t.res.status = .ok)
  /-- Ended by a frame error. -/
  | frameError (seq : t.seq = .idle) (some : l ≠ []) (count : k + l.length = 2 ∨ k + l.length = op.plan.length)
      (all : l.all isCompleted = true)
      (valid : t.res.valid = true) (status : t.res.status = .frameError) (data : t.res.data = 0#16)
  /-- Ended by a failed exchange, the last one. -/
  | failed (l' : List TraceEntry) (tx : Frame) (c : TransportCause) (seq : t.seq = .idle)
      (eq : l = l' ++ [.failed tx c]) (all : l'.all isCompleted = true) (res : t.res = ⟨true, .transport, 0#16, c⟩)

/-- Every frame of an operation is one of the block's forms, and a read frame at a read's exchange (R92, R103 (d)). -/
theorem State.frameFor_form (s : State) (op : Operation) (k : Nat) (st : Stage) :
    isBlockFrame (s.frameFor op k st) = true ∧ (st ≠ .write → isReadFrame (s.frameFor op k st) = true) := by
  cases st <;> simp [State.frameFor, isBlockFrame, isReadFrame]

/-- The whole run: the exchanges it makes and how it ends. -/
theorem State.advance_run {s : State} {op : Operation} {k : Nat} (n : Nat) (hs : s.seq = .busy op k)
    (hk : k < op.plan.length) :
    ∃ l, (s.advance n).trace = s.trace ++ l ∧ l.length ≤ n ∧ k + l.length ≤ op.plan.length ∧
      (∀ x ∈ l, isBlockFrame (sent x) = true) ∧
      (Stage.write ∉ op.plan → ∀ x ∈ l, isReadFrame (sent x) = true) ∧
      RunEnd s (s.advance n) op k l := by
  induction n generalizing s k with
  | zero =>
    exact ⟨[], by simp, by simp, by simpa using Nat.le_of_lt hk, by simp, by simp, .waiting hs (by simpa using hk) rfl rfl⟩
  | succ n ih =>
    obtain ⟨st, hp⟩ : ∃ st, op.plan[k]? = some st := ⟨_, List.getElem?_eq_getElem hk⟩
    have hst : Stage.write ∉ op.plan → st ≠ .write := fun hn he => hn (he ▸ List.mem_of_getElem? hp)
    have hform := s.frameFor_form op k st
    obtain ⟨rx, e, hx, -⟩ | ⟨c, e, hx, -⟩ | ⟨e, hx, -⟩ := s.exchange_cases (s.frameFor op k st)
    · rw [State.advance_reply hs hp hx]
      have hseq : (s.received (s.frameFor op k st) rx e).seq = .busy op (k + 1) := by simp [hs]
      obtain ⟨hlt, v, w, h⟩ | ⟨he, v, d, h⟩ | ⟨hcnt, h⟩ :=
        State.onReply_plan (s.received (s.frameFor op k st) rx e) op k rx hp
      · rw [h]
        obtain ⟨l, htr, hn, hb, hf, hr, hend⟩ :=
          ih (s := { s.received (s.frameFor op k st) rx e with img := v, s1 := w }) hseq hlt
        refine ⟨.completed (s.frameFor op k st) rx :: l, htr.trans (by simp), by simpa using hn, by simp; omega, ?_, ?_, ?_⟩
        · simpa [sent, hform.1] using hf
        · intro hno
          simpa [sent, hform.2 (hst hno)] using hr hno
        · cases hend with
          | waiting seq bound res all =>
            exact .waiting (by rw [seq]; simp; omega) (by simp; omega) res (by simpa [isCompleted] using all)
          | ok seq last all valid status =>
            exact .ok seq (by simp; omega) (by simpa [isCompleted] using all) valid status
          | frameError seq _ count all valid status data =>
            exact .frameError seq (by simp) (by simp; omega) (by simpa [isCompleted] using all) valid status data
          | failed l' tx c seq eq all res =>
            exact .failed (_ :: l') tx c seq (by rw [eq]; rfl) (by simpa [isCompleted] using all) res
      · rw [h, State.advance_idle rfl]
        refine ⟨[.completed (s.frameFor op k st) rx], by simp, by simp, by simp; omega, by simp [sent, hform.1], ?_,
          .ok rfl (by simpa using he) rfl rfl rfl⟩
        intro hno
        simp [sent, hform.2 (hst hno)]
      · rw [h, State.advance_idle rfl]
        refine ⟨[.completed (s.frameFor op k st) rx], by simp, by simp, by simp; omega, by simp [sent, hform.1], ?_,
          .frameError rfl (by simp) (by simpa using hcnt) rfl rfl rfl rfl⟩
        intro hno
        simp [sent, hform.2 (hst hno)]
    · rw [State.advance_fail hs hp hx]
      refine ⟨[.failed (s.frameFor op k st) c], rfl, by simp, by simp; omega, by simp [sent, hform.1], ?_,
        .failed [] _ c rfl rfl rfl rfl⟩
      intro hno
      simp [sent, hform.2 (hst hno)]
    · rw [State.advance_stall hs hp hx]
      exact ⟨[], by simp, by simp, by simp; omega, by simp, by simp, .waiting hs (by simpa using hk) rfl rfl⟩

/-- Every plan has one to four exchanges (R26, R282). -/
theorem Operation.plan_length (op : Operation) : 0 < op.plan.length ∧ op.plan.length ≤ 4 := by
  cases op <;> decide

/-- The working register img changes only in an operation with a read, s1 only in GET_FAULT_STATUS, the request latch in
none (R23, R24). -/
theorem State.advance_working {s : State} {op : Operation} {k : Nat} (n : Nat) (hs : s.seq = .busy op k) :
    (Stage.readSecond ∉ op.plan → (s.advance n).img = s.img) ∧
    (op ≠ .getFaultStatus → (s.advance n).s1 = s.s1) ∧ (s.advance n).req = s.req := by
  induction n generalizing s k with
  | zero => exact ⟨fun _ => rfl, fun _ => rfl, rfl⟩
  | succ n ih =>
    cases hp : op.plan[k]? with
    | none => rw [State.advance_pastPlan hs hp]; exact ⟨fun _ => rfl, fun _ => rfl, rfl⟩
    | some st =>
      obtain ⟨rx, e, hx, -⟩ | ⟨c, e, hx, -⟩ | ⟨e, hx, -⟩ := s.exchange_cases (s.frameFor op k st)
      · rw [State.advance_reply hs hp hx]
        have hseq : (s.received (s.frameFor op k st) rx e).seq = .busy op (k + 1) := by simp [hs]
        have himg : Stage.readSecond ∉ op.plan →
            ((s.received (s.frameFor op k st) rx e).onReply op k rx st).img = s.img := by
          intro hno
          cases st with
          | readFirst => rfl
          | readSecond => exact absurd (List.mem_of_getElem? hp) hno
          | write => simp only [State.onReply]; split <;> rfl
        obtain h | ⟨v, h⟩ | ⟨hop, v, h⟩ | ⟨v, d, h⟩ | h :=
          State.onReply_cases (s.received (s.frameFor op k st) rx e) op k rx st
        · rw [h]
          exact ih (s := s.received (s.frameFor op k st) rx e) hseq
        · rw [h] at himg ⊢
          obtain ⟨h1, h2, h3⟩ := ih (s := { s.received (s.frameFor op k st) rx e with img := v }) hseq
          exact ⟨fun hno => (h1 hno).trans (himg hno), h2, h3⟩
        · rw [h] at himg ⊢
          obtain ⟨h1, h2, h3⟩ := ih (s := { s.received (s.frameFor op k st) rx e with img := v, s1 := v }) hseq
          exact ⟨fun hno => (h1 hno).trans (himg hno), fun hne => absurd hop hne, h3⟩
        · rw [h] at himg ⊢
          rw [State.advance_idle rfl]
          exact ⟨himg, fun _ => rfl, rfl⟩
        · rw [h] at himg ⊢
          rw [State.advance_idle rfl]
          exact ⟨himg, fun _ => rfl, rfl⟩
      · rw [State.advance_fail hs hp hx]; exact ⟨fun _ => rfl, fun _ => rfl, rfl⟩
      · rw [State.advance_stall hs hp hx]; exact ⟨fun _ => rfl, fun _ => rfl, rfl⟩

/-- A resumption needs no more exchanges than the plan has left. -/
theorem State.advance_enough {s : State} {op : Operation} {k n : Nat} (hs : s.seq = .busy op k)
    (h : op.plan.length ≤ k + n) (m : Nat) : s.advance (n + m) = s.advance n := by
  induction n generalizing s k with
  | zero => rw [State.advance_pastPlan hs (List.getElem?_eq_none (by simpa using h)), State.advance_zero]
  | succ n ih =>
    rw [show n + 1 + m = (n + m) + 1 by omega]
    cases hp : op.plan[k]? with
    | none => rw [State.advance_pastPlan hs hp, State.advance_pastPlan hs hp]
    | some st =>
      obtain ⟨rx, e, hx, -⟩ | ⟨c, e, hx, -⟩ | ⟨e, hx, -⟩ := s.exchange_cases (s.frameFor op k st)
      · rw [State.advance_reply hs hp hx, State.advance_reply hs hp hx]
        have hseq : (s.received (s.frameFor op k st) rx e).seq = .busy op (k + 1) := by simp [hs]
        obtain ⟨-, v, w, h'⟩ | ⟨-, v, d, h'⟩ | ⟨-, h'⟩ :=
          State.onReply_plan (s.received (s.frameFor op k st) rx e) op k rx hp
        · rw [h']
          exact ih (s := { s.received (s.frameFor op k st) rx e with img := v, s1 := w }) hseq (by omega)
        · rw [h', State.advance_idle rfl, State.advance_idle rfl]
        · rw [h', State.advance_idle rfl, State.advance_idle rfl]
      · rw [State.advance_fail hs hp hx, State.advance_fail hs hp hx]
      · rw [State.advance_stall hs hp hx, State.advance_stall hs hp hx]

/-- A resumption after one completed exchange is a resumption of the state that exchange leaves. -/
theorem State.resume_reply {s : State} {op : Operation} {k : Nat} {st : Stage} {rx : Frame} {e : Env}
    (hs : s.seq = .busy op k) (hp : op.plan[k]? = some st)
    (hx : s.env.exchange (toBytes (s.frameFor op k st)) = (.reply (toBytes rx), e)) :
    s.resume = ((s.received (s.frameFor op k st) rx e).onReply op k rx st).resume := by
  rw [State.resume, State.advance_reply hs hp hx, State.resume]
  have hseq : (s.received (s.frameFor op k st) rx e).seq = .busy op (k + 1) := by simp [hs]
  have h4 := op.plan_length.2
  obtain ⟨-, v, w, h'⟩ | ⟨-, v, d, h'⟩ | ⟨-, h'⟩ :=
    State.onReply_plan (s.received (s.frameFor op k st) rx e) op k rx hp
  · rw [h']
    exact (State.advance_enough (s := { s.received (s.frameFor op k st) rx e with img := v, s1 := w }) (n := 3)
      hseq (by omega) 1).symm
  · rw [h', State.advance_idle rfl, State.advance_idle rfl]
  · rw [h', State.advance_idle rfl, State.advance_idle rfl]

/-- A reply's effect does not read the trace. -/
theorem State.onReply_trace (s : State) (T : List TraceEntry) (op : Operation) (k : Nat) (rx : Frame) (st : Stage) :
    State.onReply { s with trace := T } op k rx st = { s.onReply op k rx st with trace := T } := by
  cases st with
  | readFirst => rfl
  | readSecond =>
    simp only [State.onReply]
    split
    · rfl
    · cases op <;> simp only [State.afterRead] <;> first
        | rfl
        | (split <;> rfl)
  | write =>
    simp only [State.onReply]
    split <;> rfl

/-! ### The bits of a reply that the block reads (R93, R94) -/

theorem clearUpper_getLsbD (f : Frame) (j : Nat) :
    (clearUpper f).getLsbD j = (f.getLsbD j && !decide (11 ≤ j ∧ j < 15)) := by
  rw [clearUpper, BitVec.getLsbD_and]
  by_cases h : j < 16
  · interval_cases j <;> simp
  · simp [BitVec.getLsbD_of_ge f j (by omega)]

@[simp] theorem frameError_clearUpper (f : Frame) : frameError (clearUpper f) = frameError f := by
  rw [frameError, clearUpper_getLsbD]
  simp [frameError]

@[simp] theorem frameData_clearUpper (f : Frame) : frameData (clearUpper f) = frameData f := by
  apply BitVec.eq_of_getLsbD_eq
  intro j hj
  rw [frameData, frameData, BitVec.getLsbD_extractLsb', BitVec.getLsbD_extractLsb', clearUpper_getLsbD]
  simp [hj, show ¬ 11 ≤ j by omega]

@[simp] theorem decodeResponse_clearUpper (f : Frame) : decodeResponse (clearUpper f) = decodeResponse f := by
  simp [decodeResponse]

/-- A reply's effect does not read bits 14:11 of it. -/
theorem State.onReply_clearUpper (s : State) (op : Operation) (k : Nat) (rx : Frame) (st : Stage) :
    s.onReply op k (clearUpper rx) st = s.onReply op k rx st := by
  cases st with
  | readFirst => rfl
  | readSecond => rw [State.onReply, readFlagged, decodeResponse_clearUpper]; rfl
  | write => rw [State.onReply, writeFlagged, frameError_clearUpper]; rfl

/-- Running an operation adds to the trace and never reads it. -/
theorem State.advance_trace (n : Nat) (s : State) :
    ∃ l, ∀ T, State.advance n { s with trace := T } = { s.advance n with trace := T ++ l } := by
  induction n generalizing s with
  | zero => exact ⟨[], fun T => by simp⟩
  | succ n ih =>
    obtain hs | ⟨op, k, hs⟩ : s.seq = .idle ∨ ∃ op k, s.seq = .busy op k := by cases s.seq <;> simp
    · exact ⟨[], fun T => by rw [State.advance_idle hs, State.advance_idle (s := { s with trace := T }) hs]; simp⟩
    · cases hp : op.plan[k]? with
      | none =>
        exact ⟨[], fun T => by
          rw [State.advance_pastPlan hs hp, State.advance_pastPlan (s := { s with trace := T }) hs hp]; simp⟩
      | some st =>
        obtain ⟨rx, e, hx, -⟩ | ⟨c, e, hx, -⟩ | ⟨e, hx, -⟩ := s.exchange_cases (s.frameFor op k st)
        · obtain ⟨l, hl⟩ := ih ((s.received (s.frameFor op k st) rx e).onReply op k rx st)
          refine ⟨.completed (s.frameFor op k st) rx :: l, fun T => ?_⟩
          rw [State.advance_reply hs hp hx, State.advance_reply (s := { s with trace := T }) hs hp hx]
          have := State.onReply_trace (s.received (s.frameFor op k st) rx e)
            (T ++ [.completed (s.frameFor op k st) rx]) op k rx st
          refine (congrArg (State.advance n) this).trans ((hl _).trans ?_)
          simp
        · refine ⟨[.failed (s.frameFor op k st) c], fun T => ?_⟩
          rw [State.advance_fail hs hp hx, State.advance_fail (s := { s with trace := T }) hs hp hx]
          rfl
        · refine ⟨[], fun T => ?_⟩
          rw [State.advance_stall hs hp hx, State.advance_stall (s := { s with trace := T }) hs hp hx]
          simp

/-! ### The reference device -/

/-- With no scripted draw left, the reference device answers (R81, R84). -/
theorem Env.exchange_reference {e : Env} (hk : e.kind = .reference) (hs : e.script = []) (tx : BytePair) :
    e.exchange tx = (.reply (deviceExchange e.dev tx).1, { e with dev := (deviceExchange e.dev tx).2 }) := by
  simp [Env.exchange, Env.draw, Env.apply, hk, hs]

/-- The scripted draw is the next one (R84). -/
theorem Env.exchange_script {e : Env} {d : Draw} {ds : List Draw} (hs : e.script = d :: ds) (tx : BytePair) :
    e.exchange tx = Env.apply { e with script := ds } tx d := by
  simp [Env.exchange, Env.draw, hs]

end Sys2Proof.Machine
end

