-- ==== Sys2Proof/Tests/Slice0.lean ====
section
/-! SUPPORT. Our own tests: ill-formed instructions refused by WellFormed, words written out bit by bit from
30_encoding.md, single steps of the vectors and examples of the spec, and for every obligation with hypotheses a state
and operands that meet them. Every expected value is one the spec prints; its comment names the place. -/
namespace Sys2Proof.Tests
open Sys2Proof.Machine Sys2Proof.Safety

/-! ### Helpers -/

/-- The state after reset on a scripted transport (R84). -/
def scripted (ds : List Draw) : State := { State.reset with env := { State.reset.env with script := ds } }

/-- A scripted transport's replies. -/
def replies (fs : List Frame) : List Draw := fs.map fun f => .any (.reply (toBytes f)) none

/-- A scripted failure, with a cause that every adapter has. -/
def err : Draw := .any (.fail .base) none

/-- A scripted wait. -/
def wait : Draw := .any .stall none

/-- The state after reset on the reference device of 43_command_layer.md's examples: SR1 = 0x401, SR2 = 0x081,
CR1 = 0x2AA, CR2 = 0x555, pending = 0. -/
def onDevice : State :=
  { State.reset with
    env := ⟨.reference, [], 0,
      ⟨(((zeroDevice.regs.set 0 0x401).set 1 0x081).set 2 0x2AA).set 3 0x555, 0, 0⟩⟩ }

/-- WRITE_FE_CHECK = true (R142). -/
def checked (s : State) : State := { s with cfg := { s.cfg with writeFeCheck := true } }

/-- The next state of an outcome. -/
def after : Host.Outcome State Fault Refusal → Option State
  | .next t => some t
  | .fault _ => none
  | .refused _ => none

/-- One step with a request word placed. -/
def runWord (s : State) (w : Nat) : Option State := after (step (s.withFetchWord 32 w))

/-- The result, where it is valid: status and data. -/
def result (t : Option State) : Option (Status × BitVec 16) :=
  t.bind fun s => if s.res.valid then some (s.res.status, s.res.data) else none

/-- The frames sent. -/
def frames (t : Option State) : Option (List Frame) := t.map fun s => s.trace.map sent

/-- A register of the device. -/
def register (a : Addr) (t : Option State) : Option RegValue := t.map fun s => s.env.dev.regs.get a.toFin

/-- The output of a pure function used alone. -/
def output (i : Instr) : Option Output := (after (exec i State.reset)).map (·.out)

/-! ### WellFormed: one ill-formed instruction per check (R98, R121, R173, R181) -/

theorem test_wf_rawRead : Instr.wellFormed Config.default (.rawRead 2 1 0) = false ∧
    Instr.wellFormed Config.default (.rawRead 2 0 1) = false := by decide
theorem test_wf_rawWrite : Instr.wellFormed Config.default (.rawWrite 2 1 5) = false := by decide
theorem test_wf_rawModify : Instr.wellFormed Config.default (.rawModify 3 0x00C 0x010) = false := by decide
theorem test_wf_hasFault : Instr.wellFormed Config.default (.hasFault 1 0 0) = false ∧
    Instr.wellFormed Config.default (.hasFault 0 1 0) = false ∧
    Instr.wellFormed Config.default (.hasFault 0 0 1) = false := by decide
theorem test_wf_getDeviceId : Instr.wellFormed Config.default (.getDeviceId 1 0 0) = false := by decide
theorem test_wf_getFaultStatus : Instr.wellFormed Config.default (.getFaultStatus 0 0 1) = false := by decide
theorem test_wf_setOcAdj : Instr.wellFormed Config.default (.setOcAdj 1 0 0) = false ∧
    Instr.wellFormed Config.default (.setOcAdj 0 1 0) = false ∧
    Instr.wellFormed Config.default (.setOcAdj 0 0 32) = false ∧
    Instr.wellFormed Config.default (.setOcAdj 0 0 31) = true := by decide
theorem test_wf_setOcpMode : Instr.wellFormed Config.default (.setOcpMode 0 0 4) = false := by decide
theorem test_wf_setPwmMode : Instr.wellFormed Config.default (.setPwmMode 0 0 2) = false := by decide
theorem test_wf_setGateReset : Instr.wellFormed Config.default (.setGateReset 0 0 2) = false := by decide
theorem test_wf_setGateCurrent : Instr.wellFormed Config.default (.setGateCurrent 0 0 3) = false ∧
    Instr.wellFormed Config.default (.setGateCurrent 0 0 2) = true := by decide
theorem test_wf_setGain : Instr.wellFormed Config.default (.setGain 0 0 4) = false ∧
    Instr.wellFormed Config.default (.setGain 0 0 3) = true := by decide
theorem test_wf_setOctwMode : Instr.wellFormed Config.default (.setOctwMode 0 0 3) = false := by decide
theorem test_wf_setDcCalCh1 : Instr.wellFormed Config.default (.setDcCalCh1 0 0 2) = false := by decide
theorem test_wf_setDcCalCh2 : Instr.wellFormed Config.default (.setDcCalCh2 0 0 2) = false := by decide
theorem test_wf_setOcToff : Instr.wellFormed Config.default (.setOcToff 0 0 2) = false := by decide
theorem test_wf_writeFrame : Instr.wellFormed Config.default (.writeFrame 16 0) = false ∧
    Instr.wellFormed Config.default (.writeFrame 0 0x800) = false := by decide
theorem test_wf_readFrame : Instr.wellFormed Config.default (.readFrame 16) = false := by decide
theorem test_wf_insert : Instr.wellFormed Config.default (.insert 0 .gain 4) = false := by decide
theorem test_wf_modifyRegister : Instr.wellFormed Config.default (.modifyRegister 2 0x7C0 0x001) = false := by decide

/-! ### Decoding: RSV, OP, ADDR, A, B written out from R96 and R97 -/

theorem test_decode_rawRead : -- 0, 00000, 0010, 0, 0
    decodeTableWord 32 0b00000000100000000000000000000000 = some (.rawRead 2 0 0) := by decide
theorem test_decode_rawWrite : -- 0, 00001, 0010, 0, 11111111111
    decodeTableWord 32 0b00000100100000000000011111111111 = some (.rawWrite 2 0 0x7FF) := by decide
theorem test_decode_rawModify : -- 0, 00010, 0011, 00000001100, 00000001000
    decodeTableWord 32 0b00001000110000000110000000001000 = some (.rawModify 3 0x00C 0x008) := by decide
theorem test_decode_hasFault : decodeTableWord 32 0b00001100000000000000000000000000 = some (.hasFault 0 0 0) := by
  decide
theorem test_decode_getDeviceId :
    decodeTableWord 32 0b00010000000000000000000000000000 = some (.getDeviceId 0 0 0) := by decide
theorem test_decode_getFaultStatus :
    decodeTableWord 32 0b00010100000000000000000000000000 = some (.getFaultStatus 0 0 0) := by decide
theorem test_decode_setOcAdj : -- B = 11111
    decodeTableWord 32 0b00011000000000000000000000011111 = some (.setOcAdj 0 0 31) := by decide
theorem test_decode_setOcpMode :
    decodeTableWord 32 0b00011100000000000000000000000010 = some (.setOcpMode 0 0 2) := by decide
theorem test_decode_setPwmMode :
    decodeTableWord 32 0b00100000000000000000000000000001 = some (.setPwmMode 0 0 1) := by decide
theorem test_decode_setGateReset :
    decodeTableWord 32 0b00100100000000000000000000000001 = some (.setGateReset 0 0 1) := by decide
theorem test_decode_setGateCurrent :
    decodeTableWord 32 0b00101000000000000000000000000010 = some (.setGateCurrent 0 0 2) := by decide
theorem test_decode_setGain :
    decodeTableWord 32 0b00101100000000000000000000000011 = some (.setGain 0 0 3) := by decide
theorem test_decode_setOctwMode :
    decodeTableWord 32 0b00110000000000000000000000000001 = some (.setOctwMode 0 0 1) := by decide
theorem test_decode_setDcCalCh1 :
    decodeTableWord 32 0b00110100000000000000000000000001 = some (.setDcCalCh1 0 0 1) := by decide
theorem test_decode_setDcCalCh2 :
    decodeTableWord 32 0b00111000000000000000000000000001 = some (.setDcCalCh2 0 0 1) := by decide
theorem test_decode_setOcToff :
    decodeTableWord 32 0b00111100000000000000000000000001 = some (.setOcToff 0 0 1) := by decide
theorem test_decode_unassigned : -- 0, 10000 and 0, 11111 (V41, V42)
    decodeTableWord 32 0b01000000000000000000000000000000 = some (.unassigned 0 0 0 0) ∧
    decodeTableWord 32 0b01111100000000000000000000000000 = some (.unassigned 15 0 0 0) := by decide
theorem test_decode_rsvSet : -- RSV = 1 (V40)
    decodeTableWord 32 0b10000000100000000000000000000000 = some (.rsvSet 0x00800000) := by decide
theorem test_decode_writeFrame : -- 0, 0010, 00001000000 (R91, V3)
    decodeTableWord 16 0b0001000001000000 = some (.writeFrame 2 0x040) := by decide
theorem test_decode_readFrame : -- 1, 0011, 0 (R92)
    decodeTableWord 16 0b1001100000000000 = some (.readFrame 3) := by decide
theorem test_decode_responseFrame : -- a flagged reply, 1, 0000, 00000000011 (R93, V12)
    decodeTableWord 16 0b1000000000000011 = some (.responseFrame 0x8003) ∧
    decode (.response 0b0000010000000001) = .ok (.responseFrame 0x0401) := by decide
theorem test_decode_refused : -- a read frame with a payload is none of the block's (R92, E10)
    decode (.command 0b1001110101010101) = .error (.readFrameWithPayload 0x9D55) := by decide

/-! ### Requests, one step each -/

theorem test_rawRead_V21 : result (runWord (scripted (replies [0xFFFF, 0x0401])) 0x00800000) = some (.ok, 0x0401) ∧
    (runWord (scripted (replies [0xFFFF, 0x0401])) 0x00800000).map (·.trace) =
      some [.completed 0x9000 0xFFFF, .completed 0x9000 0x0401] := by decide
theorem test_rawRead_V25 :
    result (runWord (scripted (replies [0x0000, 0x8003])) 0x00800000) = some (.frameError, 0x0000) := by decide
theorem test_rawWrite_V30 : result (runWord (scripted (replies [0xFFFF])) 0x048007FF) = some (.ok, 0x0000) ∧
    frames (runWord (scripted (replies [0xFFFF])) 0x048007FF) = some [0x17FF] := by decide
theorem test_rawWrite_V33 :
    result (runWord (checked (scripted (replies [0xFFFF]))) 0x048007FF) = some (.frameError, 0x0000) := by decide
theorem test_rawModify_R184 : result (runWord onDevice 0x08C06008) = some (.ok, 0x0000) ∧
    frames (runWord onDevice 0x08C06008) = some [0x9800, 0x9800, 0x1D59] := by decide
theorem test_rawModify_V48 : result (runWord onDevice 0x08C06010) = some (.notSupported, 0x0000) ∧
    frames (runWord onDevice 0x08C06010) = some [] := by decide
theorem test_hasFault_R201 : result (runWord onDevice 0x0C000000) = some (.ok, 1) ∧
    frames (runWord onDevice 0x0C000000) = some [0x8000, 0x8000] := by decide
theorem test_hasFault_V46 : result (runWord onDevice 0x0C400000) = some (.notSupported, 0x0000) := by decide
theorem test_getDeviceId_R202 : result (runWord onDevice 0x10000000) = some (.ok, 1) ∧
    frames (runWord onDevice 0x10000000) = some [0x8800, 0x8800] := by decide
theorem test_getFaultStatus_R203 : result (runWord onDevice 0x14000000) = some (.ok, 0x1C01) ∧
    frames (runWord onDevice 0x14000000) = some [0x8000, 0x8000, 0x8800, 0x8800] := by decide
theorem test_setOcAdj_R204 : frames (runWord onDevice 0x18000001) = some [0x9000, 0x9000, 0x106A] ∧
    register 2 (runWord onDevice 0x18000001) = some 0x06A := by decide
theorem test_setOcAdj_V49 : result (runWord onDevice 0x18000020) = some (.notSupported, 0x0000) := by decide
theorem test_setOcpMode_R205 : frames (runWord onDevice 0x1C000002) = some [0x9000, 0x9000, 0x12AA] := by decide
theorem test_setPwmMode_R206 : frames (runWord onDevice 0x20000001) = some [0x9000, 0x9000, 0x12AA] := by decide
theorem test_setPwmMode_V51 : result (runWord onDevice 0x20000002) = some (.notSupported, 0x0000) := by decide
theorem test_setGateReset_R207 : frames (runWord onDevice 0x24000001) = some [0x9000, 0x9000, 0x12AE] := by decide
theorem test_setGateCurrent_R208 : frames (runWord onDevice 0x28000002) = some [0x9000, 0x9000, 0x12AA] := by decide
theorem test_setGateCurrent_V52 : result (runWord onDevice 0x28000003) = some (.notSupported, 0x0000) := by decide
theorem test_setGain_R209 : frames (runWord onDevice 0x2C000003) = some [0x9800, 0x9800, 0x1D5D] := by decide
theorem test_setGain_V35 :
    result (runWord (checked (scripted (replies [0x0000, 0x0555, 0x8000]))) 0x2C000001) = some (.frameError, 0) ∧
    frames (runWord (checked (scripted (replies [0x0000, 0x0555, 0x8000]))) 0x2C000001) =
      some [0x9800, 0x9800, 0x1D55] := by decide
theorem test_setOctwMode_R210 : frames (runWord onDevice 0x30000001) = some [0x9800, 0x9800, 0x1D55] := by decide
theorem test_setOctwMode_V53 : result (runWord onDevice 0x30000003) = some (.notSupported, 0x0000) := by decide
theorem test_setDcCalCh1_R211 : frames (runWord onDevice 0x34000000) = some [0x9800, 0x9800, 0x1D45] := by decide
theorem test_setDcCalCh2_R212 : frames (runWord onDevice 0x38000001) = some [0x9800, 0x9800, 0x1D75] := by decide
theorem test_setOcToff_R213 : frames (runWord onDevice 0x3C000000) = some [0x9800, 0x9800, 0x1D15] := by decide
theorem test_unassigned_V41 : result (runWord onDevice 0x40000000) = some (.notSupported, 0x0000) ∧
    frames (runWord onDevice 0x40000000) = some [] := by decide
theorem test_rsvSet_V40 : result (runWord onDevice 0x80800000) = some (.notSupported, 0x0000) := by decide

/-- V28: the failed second exchange ends the read, and no third frame is sent. -/
theorem test_transport_V28 : result (runWord (scripted (replies [0x0000] ++ [err])) 0x00800000) = some (.transport, 0x0000) ∧
    (runWord (scripted (replies [0x0000] ++ [err])) 0x00800000).map (·.trace) =
      some [.completed 0x9000 0x0000, .failed 0x9000 .base] := by decide

/-- V28, R241: the cause reported is the adapter's, whatever it is. -/
theorem test_transport_cause (c : TransportCause) :
    (runWord (scripted (replies [0x0000] ++ [.any (.fail c) none])) 0x00800000).map (·.res.cause) = some c := rfl

/-- V127: the failed third exchange ends GET_FAULT_STATUS, and the SR1 value is discarded. -/
theorem test_transport_V127 :
    result (runWord (scripted (replies [0x0000, 0x0401] ++ [err])) 0x14000000) = some (.transport, 0x0000) ∧
    (runWord (scripted (replies [0x0000, 0x0401] ++ [err])) 0x14000000).map (·.trace) =
      some [.completed 0x8000 0x0000, .completed 0x8000 0x0401, .failed 0x8800 .base] := by decide

/-- R250, R147: a read whose exchange has not ended is BUSY, and the next step goes on with it. -/
theorem test_waiting :
    (runWord (scripted (replies [0x0000] ++ [wait] ++ replies [0x0155])) 0x00800000).map (·.seq) =
      some (.busy .rawRead 1) ∧
    result ((runWord (scripted (replies [0x0000] ++ [wait] ++ replies [0x0155])) 0x00800000).bind
      fun t => after (step t)) = some (.ok, 0x0155) := by decide

/-! ### The sub-blocks used alone -/

theorem test_writeFrame_V3 : output (.writeFrame 2 0x040) = some (.frame 0x1040) := by decide
theorem test_writeFrame_V7 : output (.writeFrame 16 0) = some .none ∧
    result (after (exec (.writeFrame 16 0) State.reset)) = some (.notSupported, 0) := by decide
theorem test_readFrame_E2 : output (.readFrame 15) = some (.frame 0xF800) := by decide
theorem test_readFrame_V9 : output (.readFrame 16) = some .none := by decide
theorem test_responseFrame_V13 : output (.responseFrame 0x7FFF) = some (.response false 0x7FF) := by decide
theorem test_decodeCommand_V18 : output (.decodeCommand 0x1D55) = some (.command false 3 0x555) := by decide
theorem test_toBytes_R125 : output (.toBytes 0x9800) = some (.bytes ⟨0x98, 0x00⟩) := by decide
theorem test_fromBytes_R126 : output (.fromBytes 0x04 0x01) = some (.frame 0x0401) := by decide
theorem test_extract_R172 : output (.extract 0x040 .ocAdjSet) = some (.fieldValue 1) ∧
    output (.extract 0x7FF .deviceId) = some (.fieldValue 0xF) := by decide
theorem test_insert_V61 : output (.insert 0x7FF .ocAdjSet 0) = some (.regValue 0x03F) := by decide
theorem test_insert_V63 : output (.insert 0x555 .gain 2) = some (.regValue 0x559) := by decide
theorem test_decodeSr1_V67 : output (.decodeSr1 0x2AA) = some (.record (.sr1
    ⟨false, true, false, true, false, true, false, true, false, true, false, 0⟩)) := by decide
theorem test_decodeSr2_V70 : (decodeSr2 FieldLayout.default 0x78F).gvddOv = true ∧
    (decodeSr2 FieldLayout.default 0x78F).deviceId = 15 ∧ sr2RsvdHi (decodeSr2 FieldLayout.default 0x78F) = 7 ∧
    sr2RsvdMid (decodeSr2 FieldLayout.default 0x78F) = 0 := by decide
theorem test_decodeCr1_V71 : output (.decodeCr1 0x2AA) = some (.record (.cr1 ⟨10, 2, 1, 0, 2, 0⟩)) := by decide
theorem test_decodeCr2_V74 : cr2Rsvd (decodeCr2 FieldLayout.default 0x555) = 10 ∧
    output (.decodeCr2 0x555) = some (.record (.cr2 ⟨1, 0, 1, 1, 1, 0x500⟩)) := by decide
theorem test_encodeR_R178 : output (.encodeR (.cr2 ⟨1, 0, 1, 1, 1, 0x500⟩)) = some (.regValue 0x555) := by decide
theorem test_faultStatus_V76 : (output (.faultStatus 0x401 0x081)).map (fun o => match o with
    | .faultStatus fs p => (fs.fault, fs.fetlcOc, fs.gvddOv, fs.deviceId, p)
    | _ => (false, false, false, 0, 0)) = some (true, true, true, 1, 0x1C01) := by decide
theorem test_writeRegister_R141 :
    frames (after (exec (.writeRegister 2 0x040) (scripted (replies [0x0000])))) = some [0x1040] := by decide
theorem test_readRegister_R143 :
    result (after (exec (.readRegister 2) (scripted (replies [0xFFFF, 0x0401])))) = some (.ok, 0x401) := by decide
theorem test_modifyRegister_R181 :
    frames (after (exec (.modifyRegister 2 0x7C0 0x040) (scripted (replies [0x0000, 0x0000, 0x0000])))) =
      some [0x9000, 0x9000, 0x1040] := by decide

/-! ### Witnesses: a state and operands that meet the hypotheses of each obligation -/

/-- The environment after every scripted draw was taken. -/
def spent : Env := State.reset.env

theorem witness_CommandFramesAreBuiltFromTheirOperands : State.reset.seq = .idle ∧ 15 ≤ 15 ∧ 0x7FF ≤ 0x7FF := by decide
theorem witness_EncodersRejectOperandsOutOfRange : State.reset.seq = .idle ∧ (15 < 16 ∨ 0x7FF < 0) ∧
    (15 < 0 ∨ 0x7FF < 0x800) := by decide
theorem witness_FramesAreSplitIntoTheirFields : State.reset.seq = .idle := by decide
theorem witness_FramesCrossAsBigEndianBytes : State.reset.seq = .idle := by decide
theorem witness_PureFunctionsChangeNothingElse :
    (isPure (.toBytes 0x9800) = true ∧ ∃ t, exec (.toBytes 0x9800) State.reset = .next t) ∧
    isPure (.readFrame 16) = true ∧ ∃ t, exec (.readFrame 16) State.reset = .next t :=
  ⟨⟨rfl, _, rfl⟩, rfl, _, rfl⟩
theorem witness_ExtractReadsTheFieldBits : State.reset.seq = .idle ∧ State.reset.cfg.wf = true := by decide
theorem witness_InsertReplacesOnlyTheField : State.reset.seq = .idle ∧ State.reset.cfg.wf = true ∧
    (Instr.insert 0x555 .gain 3).wellFormed State.reset.cfg = true := by decide
theorem witness_StatusDecodersReadTheirBits : State.reset.seq = .idle ∧
    State.reset.cfg.layout = FieldLayout.default := by decide
theorem witness_ControlDecodersReadTheirBits : State.reset.seq = .idle ∧
    State.reset.cfg.layout = FieldLayout.default := by decide
theorem witness_ReencodingKeepsEveryBit : State.reset.seq = .idle ∧ State.reset.cfg.wf = true := by decide
/-- Another layout that the rules speak of: GAIN in the reserved bits 10:9 of CR2. -/
theorem witness_otherLayout : { FieldLayout.default with gain := ⟨9, 2⟩ }.wf = true := by decide
theorem witness_EncodeRecordPlacesEveryMember : State.reset.seq = .idle ∧ State.reset.cfg.wf = true ∧
    ∀ m ∈ recordMembers (.cr1 ⟨31, 3, 1, 1, 3, 0⟩),
      m.2.toNat < 2 ^ (State.reset.cfg.layout.slot m.1).width := by decide
theorem witness_FaultStatusCollectsBothRegisters : State.reset.seq = .idle ∧
    State.reset.cfg.layout = FieldLayout.default := by decide
theorem witness_InsertIsolatesTheField : Config.default.wf = true ∧ FieldName.gain.admits Config.default 3 = true ∧
    FieldName.octwMode ≠ FieldName.gain ∧ FieldName.octwMode.reg = FieldName.gain.reg := by decide

/-- A write that completes, and one whose exchange fails. -/
theorem witness_WriteSendsOneFrame : (scripted (replies [0xFFFF])).seq = .idle ∧
    Completes (scripted (replies [0xFFFF])).env [0#1 ++ 2#4 ++ 0x7FF#11] [0xFFFF] spent ∧
    Fails (scripted [err]).env (0#1 ++ 2#4 ++ 0x7FF#11) .base spent :=
  ⟨rfl, ⟨_, rfl, rfl⟩, rfl⟩
/-- A read that completes, one that is flagged, one whose first and one whose second exchange fails. -/
theorem witness_ReadReturnsTheSecondReply : (scripted (replies [0xFFFF, 0x0401])).seq = .idle ∧
    Completes (scripted (replies [0xFFFF, 0x0401])).env [1#1 ++ 2#4 ++ 0#11, 1#1 ++ 2#4 ++ 0#11] [0xFFFF, 0x0401]
      spent ∧ (0x0401 : Frame).getLsbD 15 = false ∧
    Completes (scripted (replies [0, 0x8003])).env [1#1 ++ 2#4 ++ 0#11, 1#1 ++ 2#4 ++ 0#11] [0, 0x8003] spent ∧
    Fails (scripted [err]).env (1#1 ++ 2#4 ++ 0#11) .base spent ∧
    Completes (scripted (replies [0] ++ [err])).env [1#1 ++ 2#4 ++ 0#11] [0] (scripted [err]).env :=
  ⟨rfl, ⟨_, rfl, _, rfl, rfl⟩, by decide, ⟨_, rfl, _, rfl, rfl⟩, rfl, _, rfl, rfl⟩
theorem witness_FlaggedReadEndsTheOperation : (scripted (replies [0x0000, 0x8003])).seq = .idle ∧
    (Instr.setGain 0 0 3).wellFormed Config.default = true ∧ readsFirst (.setGain 0 0 3) = true ∧
    firstRegister Config.default (.setGain 0 0 3) = some 3 ∧
    Completes (scripted (replies [0x0000, 0x8003])).env (readFrames 3) [0x0000, 0x8003] spent ∧
    (0x8003 : Frame).getLsbD 15 = true :=
  ⟨rfl, by decide, rfl, rfl, ⟨_, rfl, _, rfl, rfl⟩, by decide⟩
/-- A reading instruction and a plain write. -/
theorem witness_FailedFirstExchangeEndsTheOperation : (scripted [err]).seq = .idle ∧
    Fails (scripted [err]).env (packRead 2) .base spent ∧
    ((Instr.rawRead 2 0 0).wellFormed Config.default = true ∧ firstRegister Config.default (.rawRead 2 0 0) = some 2 ∧
      ∀ b v, Instr.rawRead 2 0 0 = .rawWrite b 0 v ∨ Instr.rawRead 2 0 0 = .writeRegister b v →
        packRead 2 = packWrite b v) ∧
    Fails (scripted [err]).env (packWrite 2 5) .base spent ∧
    (Instr.rawWrite 2 0 5).wellFormed Config.default = true ∧ readsFirst (.rawWrite 2 0 5) = false ∧
    ∀ b v, Instr.rawWrite 2 0 5 = .rawWrite b 0 v ∨ Instr.rawWrite 2 0 5 = .writeRegister b v →
      packWrite 2 5 = packWrite b v := by
  refine ⟨rfl, rfl, ⟨by decide, rfl, by simp⟩, rfl, by decide, rfl, ?_⟩
  rintro b v (h | h) <;> simp at h
  obtain ⟨rfl, rfl⟩ := h
  rfl
theorem witness_FailedSecondExchangeEndsTheRead : (scripted (replies [0x0000] ++ [err])).seq = .idle ∧
    (Instr.hasFault 0 0 0).wellFormed Config.default = true ∧ readsFirst (.hasFault 0 0 0) = true ∧
    firstRegister Config.default (.hasFault 0 0 0) = some 0 ∧
    Completes (scripted (replies [0x0000] ++ [err])).env [packRead 0] [0x0000] (scripted [err]).env ∧
    Fails (scripted [err]).env (packRead 0) .base spent :=
  ⟨rfl, by decide, rfl, rfl, ⟨_, rfl, rfl⟩, rfl⟩
theorem witness_ModifyWritesTheMaskedImage : (scripted (replies [0x0000, 0x0555, 0x0000])).seq = .idle ∧
    (0x008 : RegValue) &&& ~~~0x00C = 0#11 ∧ (0x0555 : Frame).getLsbD 15 = false ∧
    (0x559 : RegValue) = (((0x0555 : Frame).extractLsb' 0 11) &&& ~~~0x00C) ||| (0x008 &&& 0x00C) ∧
    Completes (scripted (replies [0x0000, 0x0555, 0x0000])).env [packRead 3, packRead 3, packWrite 3 0x559]
      [0x0000, 0x0555, 0x0000] spent :=
  ⟨rfl, by decide, by decide, by decide, _, rfl, _, rfl, _, rfl, rfl⟩
/-- Each of the three sequences, on a transport that completes its exchanges. -/
theorem witness_EngineSequencesUsedAlone : (scripted (replies [0, 0x0555, 0])).seq = .idle ∧
    Completes (scripted (replies [0])).env [packWrite 3 5] [0] spent ∧ (0x0555 : Frame).getLsbD 15 = false ∧
    Completes (scripted (replies [0, 0x0555])).env (readFrames 3) [0, 0x0555] spent ∧
    (0x559 : RegValue) = modifyImage ((0x0555 : Frame).extractLsb' 0 11) 0x00C 0x008 ∧
    Completes (scripted (replies [0, 0x0555, 0])).env (readFrames 3 ++ [packWrite 3 0x559]) [0, 0x0555, 0] spent :=
  ⟨rfl, ⟨_, rfl, rfl⟩, by decide, ⟨_, rfl, _, rfl, rfl⟩, by decide, _, rfl, _, rfl, _, rfl, rfl⟩
theorem witness_FailedWriteBackIsReported : (scripted (replies [0x0000, 0x0555] ++ [err])).seq = .idle ∧
    (0x008 : RegValue) &&& ~~~0x00C = 0#11 ∧ (0x0555 : Frame).getLsbD 15 = false ∧
    (0x559 : RegValue) = modifyImage ((0x0555 : Frame).extractLsb' 0 11) 0x00C 0x008 ∧
    Completes (scripted (replies [0x0000, 0x0555] ++ [err])).env (readFrames 3) [0x0000, 0x0555]
      (scripted [err]).env ∧
    Fails (scripted [err]).env (packWrite 3 0x559) .base spent :=
  ⟨rfl, by decide, by decide, by decide, ⟨_, rfl, _, rfl, rfl⟩, rfl⟩

/-- A read that completes, one that is flagged, one whose first and one whose second exchange fails, a stray operand. -/
theorem witness_HasFaultReportsTheMasterFlag : (scripted (replies [0x0000, 0x0401])).seq = .idle ∧
    Completes (scripted (replies [0x0000, 0x0401])).env (readFrames (scripted []).cfg.regAddr.sr1) [0x0000, 0x0401]
      spent ∧ (0x0401 : Frame).getLsbD 15 = false ∧
    Completes (scripted (replies [0, 0x8000])).env (readFrames (scripted []).cfg.regAddr.sr1) [0, 0x8000] spent ∧
    Fails (scripted [err]).env (packRead (scripted []).cfg.regAddr.sr1) .base spent ∧
    Completes (scripted (replies [0] ++ [err])).env [packRead (scripted []).cfg.regAddr.sr1] [0] (scripted [err]).env ∧
    (1#4 ≠ 0#4 ∧ 1#11 ≠ 0#11) ∧ (scripted []).cfg.layout = FieldLayout.default :=
  ⟨rfl, ⟨_, rfl, _, rfl, rfl⟩, by decide, ⟨_, rfl, _, rfl, rfl⟩, rfl, ⟨_, rfl, rfl⟩, by decide, rfl⟩
/-- A read that completes, one that is flagged, one whose first and one whose second exchange fails, a stray operand. -/
theorem witness_GetDeviceIdReportsTheField : (scripted (replies [0x0000, 0x0081])).seq = .idle ∧
    Completes (scripted (replies [0x0000, 0x0081])).env (readFrames (scripted []).cfg.regAddr.sr2) [0x0000, 0x0081]
      spent ∧ (0x0081 : Frame).getLsbD 15 = false ∧
    Completes (scripted (replies [0, 0x8000])).env (readFrames (scripted []).cfg.regAddr.sr2) [0, 0x8000] spent ∧
    Fails (scripted [err]).env (packRead (scripted []).cfg.regAddr.sr2) .base spent ∧
    Completes (scripted (replies [0] ++ [err])).env [packRead (scripted []).cfg.regAddr.sr2] [0] (scripted [err]).env ∧
    (1#4 ≠ 0#4 ∧ 1#11 ≠ 0#11) ∧ (scripted []).cfg.layout = FieldLayout.default :=
  ⟨rfl, ⟨_, rfl, _, rfl, rfl⟩, by decide, ⟨_, rfl, _, rfl, rfl⟩, rfl, ⟨_, rfl, rfl⟩, by decide, rfl⟩
theorem witness_GetFaultStatusReadsBothRegisters : (scripted (replies [0, 0x0401, 0, 0x0081])).seq = .idle ∧
    Completes (scripted (replies [0, 0x0401, 0, 0x0081])).env
      (readFrames (scripted []).cfg.regAddr.sr1 ++ readFrames (scripted []).cfg.regAddr.sr2)
      [0, 0x0401, 0, 0x0081] spent ∧
    (0x0401 : Frame).getLsbD 15 = false ∧ (0x0081 : Frame).getLsbD 15 = false :=
  ⟨rfl, ⟨_, rfl, _, rfl, _, rfl, _, rfl, rfl⟩, by decide, by decide⟩
/-- The SR2 read's first exchange failing, the SR2 read flagged, and its second exchange failing. -/
theorem witness_SecondStatusReadErrorEndsTheQuery : (scripted []).seq = .idle ∧ (0x0401 : Frame).getLsbD 15 = false ∧
    (Completes (scripted (replies [0, 0x0401] ++ [err])).env (readFrames (scripted []).cfg.regAddr.sr1) [0, 0x0401]
        (scripted [err]).env ∧
      Fails (scripted [err]).env (packRead (scripted []).cfg.regAddr.sr2) .base spent) ∧
    (Completes (scripted (replies [0, 0x0401, 0, 0x8000])).env
        (readFrames (scripted []).cfg.regAddr.sr1 ++ [packRead (scripted []).cfg.regAddr.sr2]) [0, 0x0401, 0]
        (scripted (replies [0x8000])).env ∧
      Completes (scripted (replies [0x8000])).env [packRead (scripted []).cfg.regAddr.sr2] [0x8000] spent ∧
      (0x8000 : Frame).getLsbD 15 = true) ∧
    Completes (scripted (replies [0, 0x0401, 0] ++ [err])).env
      (readFrames (scripted []).cfg.regAddr.sr1 ++ [packRead (scripted []).cfg.regAddr.sr2]) [0, 0x0401, 0]
      (scripted [err]).env :=
  ⟨rfl, by decide, ⟨⟨_, rfl, _, rfl, rfl⟩, rfl⟩, ⟨⟨_, rfl, _, rfl, _, rfl, rfl⟩, ⟨_, rfl, rfl⟩, by decide⟩,
    _, rfl, _, rfl, _, rfl, rfl⟩
theorem witness_SettersInsertTheirCode : (scripted (replies [0, 0x0555, 0])).seq = .idle ∧
    FieldName.gain.admits (scripted []).cfg 3 = true ∧ (0x0555 : Frame).getLsbD 15 = false ∧
    (0x55D : RegValue) = insertField (scripted []).cfg.layout ((0x0555 : Frame).extractLsb' 0 11) .gain 3 ∧
    Completes (scripted (replies [0, 0x0555, 0])).env
      (readFrames ((scripted []).cfg.regAddr.of .cr2) ++ [packWrite ((scripted []).cfg.regAddr.of .cr2) 0x55D])
      [0, 0x0555, 0] spent :=
  ⟨rfl, by decide, by decide, by decide, _, rfl, _, rfl, _, rfl, rfl⟩
/-- Each of the ten setters has a code it admits. -/
theorem witness_SettersInsertTheirCode_all :
    setters.all (fun p => p.2.admits Config.default 1) = true := by decide
/-- The four grounds of a refusal. -/
theorem witness_SettersRefuseBadOperands : State.reset.seq = .idle ∧ (1#4 ≠ 0#4) ∧ (1#11 ≠ 0#11) ∧
    2 ^ (State.reset.cfg.layout.slot .ocAdjSet).width ≤ (32#11).toNat ∧
    (FieldName.gateCurrent, 3#11) ∈ State.reset.cfg.reservedCodes := by decide
theorem witness_SettersChangeOneRegister : onDevice.seq = .idle ∧ OnReference onDevice ∧
    FieldName.gain.admits onDevice.cfg 3 = true ∧ 1 < (onDevice.cfg.regAddr.of FieldName.gain.reg).toNat :=
  ⟨rfl, ⟨rfl, rfl⟩, by decide, by decide⟩
theorem witness_QueriesOnlyRead : Instr.hasFault 0 0 0 ∈ [Instr.rawRead 0 0 0, .hasFault 0 0 0, .getDeviceId 0 0 0,
      .getFaultStatus 0 0 0, .readRegister 0] ∧ onDevice.seq = .idle ∧ OnReference onDevice ∧
    ∃ t, exec (.hasFault 0 0 0) onDevice = .next t :=
  ⟨by simp, rfl, ⟨rfl, rfl⟩, _, rfl⟩
/-- A control register and a status register. -/
theorem witness_RawWritesTouchOneRegister : onDevice.seq = .idle ∧ OnReference onDevice ∧
    (∃ t, exec (.rawWrite 2 0 5) onDevice = .next t) ∧ (3#4 ≠ 2#4) ∧
    ∃ t, exec (.rawWrite 1 0 5) onDevice = .next t :=
  ⟨rfl, ⟨rfl, rfl⟩, ⟨_, rfl⟩, by decide, _, rfl⟩
theorem witness_ReadAfterWriteGivesTheValue : onDevice.seq = .idle ∧ OnReference onDevice ∧
    onDevice.cfg.writeFeCheck = false ∧ 1 < (2#4).toNat :=
  ⟨rfl, ⟨rfl, rfl⟩, rfl, by decide⟩
theorem witness_ReferenceDeviceIsOneFrameLate : onDevice.env.kind = .reference ∧ onDevice.env.script = [] :=
  ⟨rfl, rfl⟩

theorem witness_UnassignedWordsAreRefused : State.reset.seq = .idle := by decide
theorem witness_RefusalIsDecidedByTheOperands : State.reset.seq = .idle ∧ isRequest (.rawRead 2 0 1) = true ∧
    (Instr.rawRead 2 0 1).wellFormed State.reset.cfg = false ∧ isRequest (.rawRead 2 0 0) = true ∧
    (Instr.rawRead 2 0 0).wellFormed State.reset.cfg = true := by decide
/-- A run that ends with a failed exchange, one that does not, and an operation in progress whose next exchange fails. -/
theorem witness_NothingFollowsAFailedExchange : (operationOf (.rawRead 2 0 0)).isSome = true ∧
    (∃ t, exec (.rawRead 2 0 0) (scripted [err]) = .next t ∧ t.seq = .idle ∧ t.res.status = .transport ∧
      t.trace.getLast? = some (.failed (packRead 2) .base)) ∧
    (∃ t, exec (.rawRead 2 0 0) onDevice = .next t ∧ t.res.status = .ok) ∧
    { scripted [err] with seq := .busy .rawRead 1 }.inputs.head? ≠ some .reset ∧
    ∃ t, step { scripted [err] with seq := .busy .rawRead 1 } = .next t ∧ t.seq = .idle ∧ t.res.status = .transport :=
  ⟨rfl, ⟨_, rfl, rfl, rfl, rfl⟩, ⟨_, rfl, rfl⟩, by decide, _, rfl, rfl, rfl⟩
/-- Each way of ending: OK, NOT_SUPPORTED, FRAME_ERROR, TRANSPORT; and an operation in progress that ends OK. -/
theorem witness_FrameCounts : isPure (.rawRead 2 0 0) = false ∧
    (∃ t, exec (.rawRead 2 0 0) onDevice = .next t ∧ t.res.valid = true ∧ t.res.status = .ok) ∧
    (∃ t, exec (.rawRead 2 0 1) onDevice = .next t ∧ t.res.valid = true ∧ t.res.status = .notSupported) ∧
    (∃ t, exec (.rawRead 2 0 0) (scripted (replies [0, 0x8000])) = .next t ∧ t.res.valid = true ∧
      t.res.status = .frameError) ∧
    (∃ t, exec (.rawRead 2 0 0) (scripted [err]) = .next t ∧ t.res.valid = true ∧ t.res.status = .transport) ∧
    operationOf (.rawRead 2 0 0) = some .rawRead ∧ 1 < framesOnSuccess (.rawRead 2 0 0) ∧
    { onDevice with seq := .busy .rawRead 1 }.inputs.head? ≠ some .reset ∧
    ∃ t, step { onDevice with seq := .busy .rawRead 1 } = .next t ∧ t.seq = .idle ∧ t.res.status = .ok :=
  ⟨rfl, ⟨_, rfl, rfl, rfl⟩, ⟨_, rfl, rfl, rfl⟩, ⟨_, rfl, rfl, rfl⟩, ⟨_, rfl, rfl, rfl⟩, rfl, by decide, by decide,
    _, rfl, rfl, rfl⟩
theorem witness_OperationsKeepTheContext : isPure (.rawRead 2 0 0) = false ∧
    ∃ t, exec (.rawRead 2 0 0) onDevice = .next t :=
  ⟨rfl, _, rfl⟩
theorem witness_BusyBlockAcceptsNothing : { State.reset with seq := .busy .rawRead 1 }.seq = .busy .rawRead 1 := rfl
/-- The first exchange waiting, of a reading instruction and of a plain write; and the second exchange waiting. -/
theorem witness_OperationsWaitForTheTransport : (scripted [wait]).seq = .idle ∧
    (Instr.rawRead 2 0 0).wellFormed Config.default = true ∧ operationOf (.rawRead 2 0 0) = some .rawRead ∧
    firstRegister Config.default (.rawRead 2 0 0) = some 2 ∧ readsFirst (.rawRead 2 0 0) = true ∧
    Stalls (scripted [wait]).env (packRead 2) spent ∧
    (Instr.rawWrite 2 0 5).wellFormed Config.default = true ∧ operationOf (.rawWrite 2 0 5) = some .rawWrite ∧
    Stalls (scripted [wait]).env (packWrite 2 5) spent ∧
    Completes (scripted (replies [0] ++ [wait])).env [packRead 2] [0] (scripted [wait]).env :=
  ⟨rfl, by decide, rfl, rfl, rfl, rfl, by decide, rfl, rfl, _, rfl, rfl⟩
/-- A plain write, a query, and a pure function. -/
theorem witness_WorkingRegistersAreKept : (∃ t, exec (.rawWrite 2 0 5) onDevice = .next t) ∧
    readsFirst (.rawWrite 2 0 5) = false ∧ (∃ t, exec (.rawRead 2 0 0) onDevice = .next t) ∧
    (∃ t, exec (.toBytes 0) onDevice = .next t) ∧ operationOf (.toBytes 0) = none :=
  ⟨⟨_, rfl⟩, rfl, ⟨_, rfl⟩, ⟨_, rfl⟩, rfl⟩
/-- No result; a transport error's result; another result. -/
theorem witness_ResultReadsFaultWhenUnspecified : State.reset.res.valid = false ∧
    (State.reset.raise (.transport .base)).res.valid = true ∧
    (State.reset.raise (.transport .base)).res.status = .transport ∧
    (State.reset.raise .frameError).res.valid = true ∧ (State.reset.raise .frameError).res.status ≠ .transport := by
  refine ⟨rfl, rfl, rfl, rfl, ?_⟩
  simp [State.raise, errorStatus]

theorem witness_BlockResetSendsNothing :
    { State.reset with seq := .busy .rawRead 1, inputs := [.reset] }.inputs = [.reset] := rfl
theorem witness_StepRunsTheDecodedInstruction :
    { State.reset with inputs := [.word (.request 0x00800000)] }.seq = .idle ∧
    { State.reset with inputs := [.word (.request 0x00800000)] }.inputs = [.word (.request 0x00800000)] ∧
    decode (.request 0x00800000) = .ok (.rawRead 2 0 0) ∧
    { State.reset with inputs := [.use (.toBytes 5)] }.inputs = [.use (.toBytes 5)] := by decide
theorem witness_StepWithoutARequest : State.reset.seq = .idle ∧ State.reset.inputs = [] ∧
    { State.reset with seq := .busy .rawRead 1, inputs := [.use (.toBytes 5)] }.inputs.head? ≠ some .reset := by decide
theorem witness_StepsKeepParametersAndTrace : ∃ t, step State.reset = .next t := ⟨_, rfl⟩
/-- A configuration that is not the default one. -/
theorem witness_ResetMeetsTheInvariant : { Config.default with writeFeCheck := true }.wf = true := by decide
theorem witness_StepKeepsTheInvariant : Inv { State.reset with seq := .busy .rawRead 1 } ∧
    ∃ t, step { State.reset with seq := .busy .rawRead 1 } = .next t := by
  refine ⟨⟨rfl, by decide, ?_, ?_, ?_⟩, _, rfl⟩ <;> simp [seqSound, noLeak, State.reset, State.resetWith, Operation.plan]
theorem witness_OperationsForgetTheirPast : (operationOf (.rawRead 2 0 0)).isSome = true ∧
    onDevice.seq = .idle ∧ { onDevice with img := 5, s1 := 6 }.seq = .idle ∧
    { onDevice with img := 5, s1 := 6 }.cfg = onDevice.cfg ∧ { onDevice with img := 5, s1 := 6 }.env = onDevice.env :=
  ⟨rfl, rfl, rfl, rfl, rfl⟩
/-- A read an operation begins with, a read gone on to in BUSY, and the SR2 read of GET_FAULT_STATUS. -/
theorem witness_FirstReplyIsNeverUsed : onDevice.seq = .idle ∧ (Instr.rawRead 2 0 0).wellFormed onDevice.cfg = true ∧
    readsFirst (.rawRead 2 0 0) = true ∧ firstRegister onDevice.cfg (.rawRead 2 0 0) = some 2 ∧
    (∃ t, exec (.rawRead 2 0 0) (withReply onDevice 0xFFFF none (replies [0x0401])) = .next t) ∧
    Operation.getFaultStatus.plan[2]? = some .readFirst ∧ (0x0401 : Frame).getLsbD 15 = false ∧
    ∃ t, exec (.getFaultStatus 0 0 0) (withReply onDevice 0 none
      (.any (.reply (toBytes 0x0401)) none :: .any (.reply (toBytes 0xFFFF)) none :: replies [0x0081])) = .next t :=
  ⟨rfl, by decide, rfl, rfl, ⟨_, rfl⟩, rfl, by decide, _, rfl⟩
/-- A reply that clearing changes, in an operation that ends. -/
theorem witness_UpperReplyBitsAreIgnored : clearedReplies (scripted (replies [0, 0x7C01])) ≠ scripted (replies [0, 0x7C01]) ∧
    ∃ t, exec (.rawRead 2 0 0) (scripted (replies [0, 0x7C01])) = .next t ∧ t.res.data = 0x401 :=
  ⟨by decide, _, rfl, rfl⟩
/-- An instruction with a word, and a request. -/
theorem witness_DecodeUndoesEncode : (Instr.writeFrame 15 0x7FF).wellFormed Config.default = true ∧
    encode (.writeFrame 15 0x7FF) = some (.command 0x7FFF) ∧ isRequest (.rawRead 15 0x7FF 0x7FF) = true := by decide

end Sys2Proof.Tests
end

section
/-! SUPPORT and PROOF for R94: clearing bits 14:11 of the scripted replies is a simulation. One exchange brings both runs
the same answer but for those bits, no use of a reply reads them, so the two runs stay related exchange by exchange. -/
namespace Sys2Proof.Machine
open Sys2Proof.Safety

/-! ### One exchange -/

/-- The environment with bits 14:11 of its scripted replies cleared: the environment of `clearedReplies`. -/
def Env.cleared (e : Env) : Env := { e with script := e.script.map clearedDraw }

/-- An answer with bits 14:11 of its reply cleared. -/
def clearedAnswer : Answer → Answer
  | .reply p => .reply (toBytes (clearUpper (fromBytes p)))
  | .fail c => .fail c
  | .stall => .stall

@[simp] theorem clearedReplies_env (s : State) : (clearedReplies s).env = s.env.cleared := rfl

/-- Without a script nothing is cleared. -/
theorem Env.cleared_of_script_nil {e : Env} (h : e.script = []) : e.cleared = e := by
  simp only [Env.cleared, h, List.map_nil]
  rw [← h]

/-- A draw changes the device, never the script. -/
theorem Env.apply_script (e : Env) (tx : BytePair) (d : Draw) : (e.apply tx d).2.script = e.script := by
  cases d <;> rfl

/-- An exchange without a script leaves none. -/
theorem Env.exchange_script_nil {e : Env} (h : e.script = []) (tx : BytePair) : (e.exchange tx).2.script = [] := by
  rw [Env.exchange, Env.apply_script]
  cases hk : e.kind <;> simp [Env.draw, h, hk]

@[simp] theorem clearUpper_clearUpper (f : Frame) : clearUpper (clearUpper f) = clearUpper f := by
  rw [clearUpper, clearUpper, BitVec.and_assoc, BitVec.and_self]

@[simp] theorem clearedAnswer_clearedAnswer (a : Answer) : clearedAnswer (clearedAnswer a) = clearedAnswer a := by
  cases a <;> simp [clearedAnswer]

/-- What a cleared draw does: the device's part is untouched, and the answer differs in cleared bits alone. -/
theorem Env.cleared_apply_clearedDraw (e : Env) (tx : BytePair) (d : Draw) :
    ∃ a, e.cleared.apply tx (clearedDraw d) = (a, (e.apply tx d).2.cleared) ∧
      clearedAnswer a = clearedAnswer (e.apply tx d).1 := by
  cases d with
  | any ans after =>
    cases ans with
    | reply p => exact ⟨_, rfl, clearedAnswer_clearedAnswer (.reply p)⟩
    | fail c => exact ⟨_, rfl, rfl⟩
    | stall => exact ⟨_, rfl, rfl⟩
  | reference => exact ⟨_, rfl, rfl⟩
  | flagged => exact ⟨_, rfl, rfl⟩

/-- The cleared environment answers every exchange as the environment does, but for bits 14:11 (R93, R94). -/
theorem Env.cleared_exchange (e : Env) (tx : BytePair) :
    ∃ a, e.cleared.exchange tx = (a, (e.exchange tx).2.cleared) ∧
      clearedAnswer a = clearedAnswer (e.exchange tx).1 := by
  cases h : e.script with
  | nil =>
    rw [Env.cleared_of_script_nil h, Env.cleared_of_script_nil (Env.exchange_script_nil h tx)]
    exact ⟨_, rfl, rfl⟩
  | cons d ds =>
    have hc : e.cleared.script = clearedDraw d :: ds.map clearedDraw := by simp [Env.cleared, h]
    rw [Env.exchange_script h, Env.exchange_script hc]
    exact Env.cleared_apply_clearedDraw { e with script := ds } tx d

theorem Env.cleared_exchange_reply {e e' : Env} {tx : BytePair} {rx : Frame}
    (h : e.exchange tx = (.reply (toBytes rx), e')) :
    ∃ rx', e.cleared.exchange tx = (.reply (toBytes rx'), e'.cleared) ∧ clearUpper rx' = clearUpper rx := by
  obtain ⟨a, ha, hc⟩ := e.cleared_exchange tx
  rw [h] at ha hc
  cases a with
  | reply p =>
    refine ⟨fromBytes p, by rw [ha, toBytes_fromBytes], ?_⟩
    have hbytes : toBytes (clearUpper (fromBytes p)) = toBytes (clearUpper (fromBytes (toBytes rx))) :=
      Answer.reply.inj hc
    simpa using congrArg fromBytes hbytes
  | fail c => cases hc
  | stall => cases hc

theorem Env.cleared_exchange_fail {e e' : Env} {tx : BytePair} {c : TransportCause}
    (h : e.exchange tx = (.fail c, e')) : e.cleared.exchange tx = (.fail c, e'.cleared) := by
  obtain ⟨a, ha, hc⟩ := e.cleared_exchange tx
  rw [h] at ha hc
  cases a with
  | reply p => cases hc
  | fail c' => cases hc; exact ha
  | stall => cases hc

theorem Env.cleared_exchange_stall {e e' : Env} {tx : BytePair}
    (h : e.exchange tx = (.stall, e')) : e.cleared.exchange tx = (.stall, e'.cleared) := by
  obtain ⟨a, ha, hc⟩ := e.cleared_exchange tx
  rw [h] at ha hc
  cases a with
  | reply p => cases hc
  | fail c => cases hc
  | stall => exact ha

/-! ### What a reply does -/

/-- What follows a read does not look at the environment. -/
theorem State.afterRead_env (s : State) (e : Env) (op : Operation) (k : Nat) :
    State.afterRead { s with env := e } op k = { s.afterRead op k with env := e } := by
  cases op
  case getFaultStatus => simp only [State.afterRead]; split <;> rfl
  all_goals rfl

/-- A reply's effect does not look at the environment. -/
theorem State.onReply_env (s : State) (e : Env) (op : Operation) (k : Nat) (rx : Frame) (st : Stage) :
    State.onReply { s with env := e } op k rx st = { s.onReply op k rx st with env := e } := by
  cases st with
  | readFirst => rfl
  | readSecond =>
    simp only [State.onReply]
    split
    · rfl
    · exact State.afterRead_env { s with img := (decodeResponse rx).2 } e op k
  | write =>
    simp only [State.onReply]
    split <;> rfl

/-- A reply's effect leaves the environment as it is. -/
theorem State.onReply_keeps_env (s : State) (op : Operation) (k : Nat) (rx : Frame) (st : Stage) :
    (s.onReply op k rx st).env = s.env :=
  (congrArg State.env (s.onReply_env s.env op k rx st) :)

/-- A reply's effect leaves the trace as it is. -/
theorem State.onReply_keeps_trace (s : State) (op : Operation) (k : Nat) (rx : Frame) (st : Stage) :
    (s.onReply op k rx st).trace = s.trace :=
  (congrArg State.trace (s.onReply_trace s.trace op k rx st) :)

/-- Replies that differ in bits 14:11 alone have one effect (R94). -/
theorem State.onReply_eq_of_clearUpper_eq {rx rx' : Frame} (h : clearUpper rx' = clearUpper rx) (s : State)
    (op : Operation) (k : Nat) (st : Stage) : s.onReply op k rx' st = s.onReply op k rx st := by
  rw [← s.onReply_clearUpper op k rx', h, s.onReply_clearUpper]

end Sys2Proof.Machine

/-! ### The simulation -/

namespace Sys2Proof.Safety
open Sys2Proof.Machine

theorem sameButUpperBits_clearedReplies (s : State) : SameButUpperBits s (clearedReplies s) := ⟨rfl, rfl⟩

/-- The related states of s: s cleared, with a trace that is s's own but for bits 14:11 of replies. -/
theorem sameButUpperBits_iff {s u : State} :
    SameButUpperBits s u ↔
      ∃ T, T.map clearedEntry = s.trace.map clearedEntry ∧ u = { s with env := s.env.cleared, trace := T } := by
  constructor
  · rintro ⟨htrace, hrest⟩
    exact ⟨u.trace, htrace, congrArg (fun v : State => { v with trace := u.trace }) hrest⟩
  · rintro ⟨T, hT, rfl⟩
    exact ⟨hT, rfl⟩

theorem map_clearedEntry_append {T T' : List TraceEntry} {x x' : TraceEntry}
    (h : T'.map clearedEntry = T.map clearedEntry) (hx : clearedEntry x' = clearedEntry x) :
    (T' ++ [x']).map clearedEntry = (T ++ [x]).map clearedEntry := by
  simp [h, hx]

section
variable {s u : State} (h : SameButUpperBits s u)
include h

theorem SameButUpperBits.seq_eq : u.seq = s.seq := (congrArg State.seq h.2 :)

theorem SameButUpperBits.env_eq : u.env = s.env.cleared := (congrArg State.env h.2 :)

/-- Both runs send the same frame. -/
theorem SameButUpperBits.frameFor_eq (op : Operation) (k : Nat) (st : Stage) :
    u.frameFor op k st = s.frameFor op k st := by
  obtain ⟨T, -, rfl⟩ := sameButUpperBits_iff.1 h
  cases st <;> rfl

/-- A completed exchange, with replies that differ in bits 14:11 alone. -/
theorem SameButUpperBits.received {rx rx' : Frame} (hrx : clearUpper rx' = clearUpper rx) (tx : Frame) (e : Env) :
    SameButUpperBits (s.received tx rx e) (u.received tx rx' e.cleared) := by
  obtain ⟨T, hT, rfl⟩ := sameButUpperBits_iff.1 h
  exact sameButUpperBits_iff.2
    ⟨_, map_clearedEntry_append hT (by simp only [clearedEntry, hrx]), rfl⟩

/-- A failed exchange: the same error with the same cause. -/
theorem SameButUpperBits.failed (tx : Frame) (c : TransportCause) (e : Env) :
    SameButUpperBits (State.raise { s with env := e, trace := s.trace ++ [.failed tx c] } (.transport c))
      (State.raise { u with env := e.cleared, trace := u.trace ++ [.failed tx c] } (.transport c)) := by
  obtain ⟨T, hT, rfl⟩ := sameButUpperBits_iff.1 h
  exact sameButUpperBits_iff.2 ⟨_, map_clearedEntry_append hT rfl, rfl⟩

/-- An exchange that has not ended. -/
theorem SameButUpperBits.waiting (e : Env) :
    SameButUpperBits { s with env := e } { u with env := e.cleared } := by
  obtain ⟨T, hT, rfl⟩ := sameButUpperBits_iff.1 h
  exact sameButUpperBits_iff.2 ⟨T, hT, rfl⟩

/-- The use of one reply. -/
theorem SameButUpperBits.onReply (op : Operation) (k : Nat) (rx : Frame) (st : Stage) :
    SameButUpperBits (s.onReply op k rx st) (u.onReply op k rx st) := by
  obtain ⟨T, hT, rfl⟩ := sameButUpperBits_iff.1 h
  refine sameButUpperBits_iff.2 ⟨T, by rwa [State.onReply_keeps_trace], ?_⟩
  rw [State.onReply_keeps_env]
  exact (State.onReply_trace { s with env := s.env.cleared } T op k rx st).trans
    (congrArg (fun v : State => { v with trace := T }) (s.onReply_env s.env.cleared op k rx st))

end

/-- Two related operations in progress stay related as far as the environment answers (R94, R103 (b)). -/
theorem SameButUpperBits.advance (n : Nat) {s u : State} (h : SameButUpperBits s u) :
    SameButUpperBits (s.advance n) (u.advance n) := by
  induction n generalizing s u with
  | zero => exact h
  | succ n ih =>
    cases hs : s.seq with
    | idle => rwa [State.advance_idle hs, State.advance_idle (h.seq_eq.trans hs)]
    | busy op k =>
      have hu : u.seq = .busy op k := h.seq_eq.trans hs
      cases hp : op.plan[k]? with
      | none => rwa [State.advance_pastPlan hs hp, State.advance_pastPlan hu hp]
      | some st =>
        have hframe := h.frameFor_eq op k st
        obtain ⟨rx, e, hx, -⟩ | ⟨c, e, hx, -⟩ | ⟨e, hx, -⟩ := s.exchange_cases (s.frameFor op k st)
        · obtain ⟨rx', hx', hrx⟩ := Env.cleared_exchange_reply hx
          rw [← h.env_eq, ← hframe] at hx'
          rw [State.advance_reply hs hp hx, State.advance_reply hu hp hx', hframe,
            State.onReply_eq_of_clearUpper_eq hrx]
          exact ih ((h.received hrx _ e).onReply op k rx st)
        · have hx' := Env.cleared_exchange_fail hx
          rw [← h.env_eq, ← hframe] at hx'
          rw [State.advance_fail hs hp hx, State.advance_fail hu hp hx', hframe]
          exact h.failed _ c e
        · have hx' := Env.cleared_exchange_stall hx
          rw [← h.env_eq, ← hframe] at hx'
          rw [State.advance_stall hs hp hx, State.advance_stall hu hp hx']
          exact h.waiting e

end Sys2Proof.Safety

/-! ### Instructions -/

namespace Sys2Proof.Machine
open Sys2Proof.Safety

/-- What is done only in IDLE keeps the two runs related if it does so there; in BUSY neither run moves (R22). -/
theorem State.whenIdle_sameButUpperBits {s t : State} {f : State → State}
    (hf : SameButUpperBits (f s) (f (clearedReplies s))) (h : s.whenIdle f = .next t) :
    ∃ u, (clearedReplies s).whenIdle f = .next u ∧ SameButUpperBits t u := by
  cases hs : s.seq with
  | idle =>
    rw [State.whenIdle_idle hs] at h
    cases h
    exact ⟨_, State.whenIdle_idle (s := clearedReplies s) hs f, hf⟩
  | busy op k =>
    rw [State.whenIdle_busy hs] at h
    cases h
    exact ⟨_, State.whenIdle_busy (s := clearedReplies s) hs f, sameButUpperBits_clearedReplies s⟩

theorem State.request_sameButUpperBits {s t : State} {legal : Bool} {op : Operation} {addr : Addr} {a b : RegValue}
    (h : s.request legal op addr a b = .next t) :
    ∃ u, (clearedReplies s).request legal op addr a b = .next u ∧ SameButUpperBits t u := by
  refine State.whenIdle_sameButUpperBits ?_ h
  cases legal with
  | true => exact SameButUpperBits.advance 4 (sameButUpperBits_clearedReplies (s.accept op addr a b))
  | false => exact sameButUpperBits_clearedReplies s.refuse

theorem State.output_sameButUpperBits {s t : State} {o : Output} (h : s.output o = .next t) :
    ∃ u, (clearedReplies s).output o = .next u ∧ SameButUpperBits t u :=
  State.whenIdle_sameButUpperBits (sameButUpperBits_clearedReplies { s with out := o }) h

theorem State.outputChecked_sameButUpperBits {s t : State} {r : Option Frame} (h : s.outputChecked r = .next t) :
    ∃ u, (clearedReplies s).outputChecked r = .next u ∧ SameButUpperBits t u := by
  refine State.whenIdle_sameButUpperBits ?_ h
  cases r with
  | some f => exact sameButUpperBits_clearedReplies { s with out := .frame f }
  | none => exact sameButUpperBits_clearedReplies (State.raise { s with out := .none } .notSupported)

theorem State.refuse_sameButUpperBits {s t : State} (h : (s.whenIdle fun v => v.refuse) = .next t) :
    ∃ u, ((clearedReplies s).whenIdle fun v => v.refuse) = .next u ∧ SameButUpperBits t u :=
  State.whenIdle_sameButUpperBits (sameButUpperBits_clearedReplies s.refuse) h

/-- Every instruction, in IDLE and in BUSY: an operation by its request, a refused word by its refusal, a pure function by
its output. -/
theorem exec_sameButUpperBits {s t : State} {i : Instr} (h : exec i s = .next t) :
    ∃ u, exec i (clearedReplies s) = .next u ∧ SameButUpperBits t u := by
  cases hop : operationOf i with
  | some op =>
    obtain ⟨legal, addr, a, b, he, -⟩ := exec_operation hop
    rw [he] at h ⊢
    exact State.request_sameButUpperBits h
  | none =>
    cases i <;> simp only [operationOf, reduceCtorEq] at hop
    case unassigned => exact State.refuse_sameButUpperBits h
    case rsvSet => exact State.refuse_sameButUpperBits h
    case writeFrame => exact State.outputChecked_sameButUpperBits h
    case readFrame => exact State.outputChecked_sameButUpperBits h
    all_goals exact State.output_sameButUpperBits h

/-- Settles O56: the run on cleared replies simulates the run on the replies as scripted, exchange by exchange. -/
theorem upperReplyBitsAreIgnored : Obligations.UpperReplyBitsAreIgnored :=
  ⟨fun _ _ _ h => exec_sameButUpperBits h,
    fun s => SameButUpperBits.advance 4 (sameButUpperBits_clearedReplies s)⟩

end Sys2Proof.Machine
end

section
/-! SUPPORT and PROOF for R144: two scripted runs that differ in the first reply of a read. A scripted reply is one
exchange that leaves the rest of the script, a read's first reply has no effect but its trace entry, and an operation
never reads the trace, so both runs go on from one state. -/
namespace Sys2Proof.Machine
open Sys2Proof.Safety

/-- The environment after a scripted reply: the rest of the script, and the device as `after` says. -/
def Env.afterReply (e : Env) (after : Option Device) (ds : List Draw) : Env :=
  { e with script := ds, dev := after.getD e.dev }

/-- The block after exchange k of an operation, answered by a scripted rx with the draws ds to follow. -/
def State.answered (s : State) (op : Operation) (k : Nat) (st : Stage) (rx : Frame) (after : Option Device)
    (ds : List Draw) : State :=
  (s.received (s.frameFor op k st) rx (s.env.afterReply after ds)).onReply op k rx st

/-- A run whose next reply is scripted makes that exchange and goes on with the rest of the script. -/
theorem State.resume_withReply {s : State} {op : Operation} {k : Nat} {st : Stage} (hs : s.seq = .busy op k)
    (hp : op.plan[k]? = some st) (rx : Frame) (after : Option Device) (ds : List Draw) :
    (withReply s rx after ds).resume = (s.answered op k st rx after ds).resume := by
  have hframe : (withReply s rx after ds).frameFor op k st = s.frameFor op k st := by cases st <;> rfl
  have hx : (withReply s rx after ds).env.exchange (toBytes ((withReply s rx after ds).frameFor op k st)) =
      (.reply (toBytes rx), s.env.afterReply after ds) :=
    Env.exchange_script (e := (withReply s rx after ds).env) rfl _
  rw [State.resume_reply (s := withReply s rx after ds) hs hp hx, hframe]
  rfl

/-- The draw that follows a scripted reply is the next one of the block that reply leaves. -/
theorem State.answered_cons (s : State) (op : Operation) (k : Nat) (st : Stage) (rx rx2 : Frame)
    (after after2 : Option Device) (ds ds2 : List Draw) :
    s.answered op k st rx after (.any (.reply (toBytes rx2)) after2 :: ds2) =
      withReply (s.answered op k st rx after ds) rx2 after2 ds2 := by
  rw [withReply, State.answered, State.answered, State.onReply_keeps_env]
  exact State.onReply_env (s.received (s.frameFor op k st) rx (s.env.afterReply after ds))
    (s.env.afterReply after (.any (.reply (toBytes rx2)) after2 :: ds2)) op k rx st

/-- R144 for one read, wherever it stands in an operation: with any first reply the run goes on from one block state but
for the recorded reply, so it ends in one state but for that entry of the trace. -/
theorem State.resume_firstReply_unused {s : State} {op : Operation} {k : Nat} (hs : s.seq = .busy op k)
    (hp : op.plan[k]? = some .readFirst) (after : Option Device) (ds : List Draw) :
    ∃ (t : State) (l : List TraceEntry), ∀ rx, (withReply s rx after ds).resume =
      { t with trace := s.trace ++ .completed (packRead (s.target op k)) rx :: l } := by
  obtain ⟨l, hl⟩ := State.advance_trace 4 (s.answered op k .readFirst 0#16 after ds)
  refine ⟨(s.answered op k .readFirst 0#16 after ds).advance 4, l, fun rx => ?_⟩
  have hrun := hl (s.trace ++ [.completed (packRead (s.target op k)) rx])
  rw [List.append_assoc, List.singleton_append] at hrun
  exact (State.resume_withReply hs hp rx after ds).trans hrun

/-- The same, as the difference of two runs. -/
theorem State.resume_firstReply {s : State} {op : Operation} {k : Nat} (hs : s.seq = .busy op k)
    (hp : op.plan[k]? = some .readFirst) (rx rx' : Frame) (after : Option Device) (ds : List Draw) :
    ∃ l, (withReply s rx after ds).resume.trace = s.trace ++ .completed (packRead (s.target op k)) rx :: l ∧
      (withReply s rx' after ds).resume =
        { (withReply s rx after ds).resume with
          trace := s.trace ++ .completed (packRead (s.target op k)) rx' :: l } := by
  obtain ⟨t, l, h⟩ := State.resume_firstReply_unused hs hp after ds
  exact ⟨l, by rw [h], by rw [h, h]⟩

/-- An instruction that begins with a read is an operation whose plan does. -/
theorem plan_of_readsFirst {i : Instr} (h : readsFirst i = true) :
    ∃ op, operationOf i = some op ∧ op.plan[0]? = some .readFirst := by
  cases i <;> simp only [readsFirst, operationOf, Option.isSome, Bool.false_eq_true] at h <;> exact ⟨_, rfl, rfl⟩

/-- A well-formed operation in IDLE, with its first reply scripted, is accepted and run. -/
theorem exec_withReply {s : State} {i : Instr} {op : Operation} {a : Addr} (hs : s.seq = .idle)
    (hw : i.wellFormed s.cfg = true) (hop : operationOf i = some op) (ha : firstRegister s.cfg i = some a) :
    ∃ u : State, u.seq = .busy op 0 ∧ u.trace = s.trace ∧ u.target op 0 = a ∧
      ∀ rx after ds, exec i (withReply s rx after ds) = .next (withReply u rx after ds).resume := by
  obtain ⟨legal, addr, x, y, he, hlegal, -, hfirst, -⟩ := exec_operation hop
  refine ⟨s.accept op addr x y, rfl, rfl, Option.some.inj ((hfirst s).symm.trans ha), fun rx after ds => ?_⟩
  rw [he, show legal (withReply s rx after ds).cfg = true from hlegal s.cfg hw]
  exact State.request_accepted (s := withReply s rx after ds) hs op addr x y

/-- A read's second reply that is not flagged: its data is kept (R143, R145). -/
theorem State.onReply_kept {rx : Frame} (hf : rx.getLsbD 15 = false) (s : State) (op : Operation) (k : Nat) :
    s.onReply op k rx .readSecond = State.afterRead { s with img := rx.extractLsb' 0 11 } op k := by
  simp only [State.onReply, readFlagged, decodeResponse, frameError, frameData, hf, Bool.false_eq_true, if_false]

/-- GET_FAULT_STATUS, well-formed, with its SR1 read scripted and not flagged, goes on to its SR2 read (R203). -/
theorem exec_getFaultStatus_withReply {s : State} (hs : s.seq = .idle) (rx1 : Frame) {rx2 : Frame}
    (after1 after2 : Option Device) (hf : rx2.getLsbD 15 = false) :
    ∃ w : State, w.seq = .busy .getFaultStatus 2 ∧ w.target .getFaultStatus 2 = s.cfg.regAddr.sr2 ∧
      w.trace = s.trace ++ completedTrace (readFrames s.cfg.regAddr.sr1) [rx1, rx2] ∧
      ∀ rx after ds, exec (.getFaultStatus 0 0 0) (withReply s rx1 after1
          (.any (.reply (toBytes rx2)) after2 :: .any (.reply (toBytes rx)) after :: ds)) =
        .next (withReply w rx after ds).resume := by
  let u := s.accept .getFaultStatus 0 0 0
  let v := u.answered .getFaultStatus 0 .readFirst rx1 after1 []
  refine ⟨v.answered .getFaultStatus 1 .readSecond rx2 after2 [], ?_, ?_, ?_, fun rx after ds => ?_⟩
  · rw [State.answered, State.onReply_kept hf]; rfl
  · rw [State.answered, State.onReply_kept hf]; rfl
  · rw [State.answered, State.onReply_keeps_trace]
    exact List.append_assoc ..
  · rw [← State.answered_cons, ← State.resume_withReply (s := v) rfl rfl, ← State.answered_cons,
      ← State.resume_withReply (s := u) rfl rfl]
    exact State.request_accepted (s := withReply s rx1 after1 _) hs ..

/-- Settles O55: the run of an operation is the run of its BUSY state, and there `State.resume_firstReply` speaks. -/
theorem firstReplyIsNeverUsed : Obligations.FirstReplyIsNeverUsed := by
  refine ⟨?_, fun s op k rx rx' after ds hs hp => State.resume_firstReply hs hp rx rx' after ds, ?_⟩
  · intro s t i a rx rx' after ds hs hw hr ha ht
    obtain ⟨op, hop, hp⟩ := plan_of_readsFirst hr
    obtain ⟨u, hu, htrace, htarget, he⟩ := exec_withReply hs hw hop ha
    obtain ⟨l, hl, hl'⟩ := State.resume_firstReply hu hp rx rx' after ds
    rw [htrace, htarget] at hl hl'
    obtain rfl := Host.Outcome.next.inj ((he rx after ds).symm.trans ht)
    exact ⟨l, hl, (he rx' after ds).trans (congrArg _ hl')⟩
  · intro s t rx1 rx2 rx rx' after1 after2 after ds hs hf ht
    obtain ⟨w, hw, htarget, htrace, he⟩ := exec_getFaultStatus_withReply hs rx1 after1 after2 hf
    obtain ⟨l, hl, hl'⟩ := State.resume_firstReply hw rfl rx rx' after ds
    rw [htrace, htarget] at hl hl'
    obtain rfl := Host.Outcome.next.inj ((he rx after ds).symm.trans ht)
    exact ⟨l, hl, (he rx' after ds).trans (congrArg _ hl')⟩

end Sys2Proof.Machine
end

section
/-! SUPPORT and PROOF for R141, R143 and R145: what a request that is one write, or one read, does as a whole. -/
namespace Sys2Proof.Machine
open Sys2Proof.Safety

/-- An end seen from the block that was accepted is the same end seen from the block before (R26 (a)). -/
theorem ended_of_accept {s t : State} {op : Operation} {addr : Addr} {x y : RegValue} {status : Status}
    {data : BitVec 16} {e : Env} {l : List TraceEntry} (h : Ended (s.accept op addr x y) t status data e l) :
    Ended s t status data e l :=
  ⟨h.seq, h.valid, h.status, h.data, h.env, h.trace,
    ⟨h.context.cfg, h.context.ownsBus, h.context.inputs, h.context.out⟩⟩

/-- The end by a failed exchange, with the exchanges l before it (R146, R241). -/
theorem ended_failed {s t : State} {l : List TraceEntry} (tx : Frame) (c : TransportCause) (e : Env)
    (hc : SameContext s t) (ht : t.trace = s.trace ++ l) :
    Ended s (State.raise { t with env := e, trace := t.trace ++ [.failed tx c] } (.transport c)) .transport 0#16 e
      (l ++ [.failed tx c]) :=
  ended_raise (.transport c) ⟨hc.cfg, hc.ownsBus, hc.inputs, hc.out⟩ rfl (by simp [ht])

/-! ### One write -/

theorem exec_rawWrite {s : State} (hs : s.seq = .idle) (a : Addr) (v : RegValue) :
    exec (.rawWrite a 0 v) s = .next ((s.accept .rawWrite a 0 v).advance 4) :=
  State.request_accepted hs ..

/-- Settles O16: the write's one exchange completes, or it fails. -/
theorem writeSendsOneFrame : Obligations.WriteSendsOneFrame := by
  intro s a v hs
  have hctx := sameContext_accept s .rawWrite a 0 v
  refine ⟨?_, ?_⟩
  · rintro rx e ⟨e1, x, rfl⟩
    refine ⟨_, exec_rawWrite hs a v, ?_⟩
    rw [State.run_write (s := s.accept .rawWrite a 0 v) rfl rfl x]
    exact ended_write ⟨rfl, rfl, rfl, rfl⟩ rfl rfl
  · intro c e x
    refine ⟨_, exec_rawWrite hs a v, ?_⟩
    rw [State.advance_fail (s := s.accept .rawWrite a 0 v) (st := .write) rfl rfl x 3]
    exact ⟨rfl, ended_failed _ c e hctx (l := []) (by simp)⟩

/-! ### One read -/

/-- A read whose second exchange fails ends the operation there (R146). -/
theorem State.run_read_second_fails {s : State} {op : Operation} {k : Nat} {rx1 : Frame} {c : TransportCause}
    {e1 e2 : Env} (hs : s.seq = .busy op k) (h1 : op.plan[k]? = some .readFirst)
    (h2 : op.plan[k + 1]? = some .readSecond)
    (x1 : s.env.exchange (toBytes (packRead (s.target op k))) = (.reply (toBytes rx1), e1))
    (x2 : e1.exchange (toBytes (packRead (s.target op (k + 1)))) = (.fail c, e2)) (n : Nat) :
    let t := s.received (packRead (s.target op k)) rx1 e1
    s.advance (n + 2) = State.raise
      { t with env := e2, trace := t.trace ++ [.failed (packRead (s.target op (k + 1))) c] } (.transport c) := by
  have hseq : (s.received (packRead (s.target op k)) rx1 e1).seq = .busy op (k + 1) := by simp [hs]
  exact (State.run_read_second hs h1 x1 (n + 1)).trans (State.advance_fail (st := .readSecond) hseq h2 x2 n)

/-- A whole read, completed: it ends as its second reply says (R143, R145). -/
theorem State.query_completed {s : State} {op : Operation} {rx1 rx2 : Frame} {e : Env} {d : RegValue → BitVec 16}
    (hs : s.seq = .busy op 0) (hp : op.plan = [.readFirst, .readSecond])
    (hd : ∀ t : State, t.cfg = s.cfg → t.afterRead op 1 = t.finish (d t.img))
    (hc : Completes s.env (readFrames (s.target op 0)) [rx1, rx2] e) :
    (rx2.getLsbD 15 = false → (s.advance 4).img = rx2.extractLsb' 0 11) ∧
      Ended s (s.advance 4) (if rx2.getLsbD 15 then .frameError else .ok)
        (if rx2.getLsbD 15 then 0#16 else d (rx2.extractLsb' 0 11)) e
        (completedTrace (readFrames (s.target op 0)) [rx1, rx2]) := by
  obtain ⟨e1, x1, e2, x2, rfl⟩ := hc
  have ht := read_target hp s
  have h1 : op.plan[0]? = some .readFirst := by rw [hp]; rfl
  have h2 : op.plan[0 + 1]? = some .readSecond := by rw [hp]; rfl
  have htrace := s.afterTwoKept_trace op 0 rx1 rx2 e1 e2
  have hctx := s.afterTwoKept_context op 0 rx1 rx2 e1 e2
  rw [Nat.zero_add, ht] at htrace
  rw [← ht] at x2
  cases hf : rx2.getLsbD 15 with
  | false =>
    rw [State.run_read_kept hs h1 h2 x1 x2 hf 2, hd (s.afterTwoKept op 0 rx1 rx2 e1 e2) rfl, State.advance_idle rfl]
    exact ⟨fun _ => rfl, ended_finish _ hctx rfl htrace⟩
  | true =>
    rw [State.run_read_flagged hs h1 h2 x1 x2 hf 2]
    exact ⟨nofun, ended_raise .frameError ⟨rfl, rfl, rfl, rfl⟩ rfl htrace⟩

/-- An accepted request whose plan is one read, ended with a value of the read data, is one logical read (R143, R145,
R146). -/
theorem isRead_of_accepted {s : State} {i : Instr} {op : Operation} {addr : Addr} {x y : RegValue} {a : Addr}
    {d : RegValue → BitVec 16} (he : exec i s = .next ((s.accept op addr x y).advance 4))
    (hp : op.plan = [.readFirst, .readSecond]) (ha : (s.accept op addr x y).target op 0 = a)
    (hd : ∀ t : State, t.cfg = s.cfg → t.afterRead op 1 = t.finish (d t.img)) : IsRead s i a d := by
  subst ha
  have hctx := sameContext_accept s op addr x y
  have h1 : op.plan[0]? = some .readFirst := by rw [hp]; rfl
  have h2 : op.plan[0 + 1]? = some .readSecond := by rw [hp]; rfl
  have ht := read_target hp (s.accept op addr x y)
  refine ⟨fun rx1 rx2 e hc => ?_, fun c e hx => ?_, fun rx1 c e1 e2 hc hx => ?_⟩
  · obtain ⟨himg, hend⟩ := State.query_completed (s := s.accept op addr x y) rfl hp hd hc
    exact ⟨_, he, himg, ended_of_accept hend⟩
  · rw [State.advance_fail (s := s.accept op addr x y) rfl h1 hx] at he
    exact ⟨_, he, rfl, ended_failed _ c e hctx (l := []) (by simp)⟩
  · obtain ⟨e', x1, rfl⟩ := hc
    rw [State.run_read_second_fails (s := s.accept op addr x y) rfl h1 h2 x1 (ht ▸ hx) 2, ht] at he
    exact ⟨_, he, rfl, ended_failed _ c e2 ⟨rfl, rfl, rfl, rfl⟩ (l := [.completed _ rx1]) rfl⟩

theorem exec_rawRead {s : State} (hs : s.seq = .idle) (a : Addr) :
    exec (.rawRead a 0 0) s = .next ((s.accept .rawRead a 0 0).advance 4) :=
  State.request_accepted hs ..

/-- Settles O17: RAW_READ is one read whose value is the data read. -/
theorem readReturnsTheSecondReply : Obligations.ReadReturnsTheSecondReply :=
  fun _ a hs => isRead_of_accepted (exec_rawRead hs a) rfl rfl fun _ _ => rfl

end Sys2Proof.Machine
end

section
/-! SUPPORT and PROOF for R146 and R241: a failed exchange is the last of a run, which it ends. -/
namespace Sys2Proof.Machine
open Sys2Proof.Safety

/-- The exchanges l, made on the way to t, are all completed but perhaps the last; t has ended with TRANSPORT exactly by
such a failure, and with its cause (R146, R241). -/
structure FailsOnlyLast (t : State) (l : List TraceEntry) : Prop where
  init   : ∀ x ∈ l.dropLast, ∃ tx rx, x = .completed tx rx
  last   : ∀ tx c, l.getLast? = some (.failed tx c) → t.seq = .idle ∧ t.res = ⟨true, .transport, 0#16, c⟩
  ending : t.seq = .idle → t.res.status = .transport → ∃ tx, l.getLast? = some (.failed tx t.res.cause)

theorem eq_completed_of_all {l : List TraceEntry} (h : l.all isCompleted = true) {x : TraceEntry} (hx : x ∈ l) :
    ∃ tx rx, x = .completed tx rx := by
  have hc := List.all_eq_true.1 h x hx
  cases x with
  | completed tx rx => exact ⟨tx, rx, rfl⟩
  | failed tx c => cases hc

/-- Without a failed exchange nothing ends with TRANSPORT. -/
theorem failsOnlyLast_of_all {t : State} {l : List TraceEntry} (h : l.all isCompleted = true)
    (ht : t.seq = .idle → t.res.status ≠ .transport) : FailsOnlyLast t l where
  init _ hx := eq_completed_of_all h (List.mem_of_mem_dropLast hx)
  last _ _ hl := by
    obtain ⟨_, _, hx⟩ := eq_completed_of_all h (List.mem_of_getLast? hl)
    cases hx
  ending hs hst := absurd hst (ht hs)

/-- However a run ends. -/
theorem RunEnd.failsOnlyLast {s t : State} {op : Operation} {k : Nat} {l : List TraceEntry}
    (h : RunEnd s t op k l) : FailsOnlyLast t l := by
  cases h with
  | waiting seq bound res all => exact failsOnlyLast_of_all all fun h => by simp [seq] at h
  | ok seq last all valid status => exact failsOnlyLast_of_all all fun _ => by simp [status]
  | frameError seq some count all valid status data => exact failsOnlyLast_of_all all fun _ => by simp [status]
  | failed l' tx c seq eq all res =>
    subst eq
    refine ⟨fun x hx => eq_completed_of_all all (by simpa using hx), fun tx' c' hl => ?_, fun _ _ => ⟨tx, by simp [res]⟩⟩
    obtain ⟨rfl, rfl⟩ : tx = tx' ∧ c = c' := by simpa using hl
    exact ⟨seq, res⟩

/-- A resumption, also one past the plan, which changes nothing (log 24). -/
theorem State.resume_failsOnlyLast {s : State} {op : Operation} {k : Nat} (hs : s.seq = .busy op k) :
    ∃ l, s.resume.trace = s.trace ++ l ∧ FailsOnlyLast s.resume l := by
  rcases Nat.lt_or_ge k op.plan.length with hk | hk
  · obtain ⟨l, htrace, -, -, -, -, hend⟩ := State.advance_run 4 hs hk
    exact ⟨l, htrace, hend.failsOnlyLast⟩
  · have hstay : s.resume = s := State.advance_pastPlan hs (List.getElem?_eq_none hk) 4
    rw [hstay]
    exact ⟨[], by simp, failsOnlyLast_of_all rfl fun h => by simp [hs] at h⟩

/-- An operation presented in IDLE: run, or refused before any exchange (R98, R244). -/
theorem exec_failsOnlyLast {s t : State} {i : Instr} (hi : (operationOf i).isSome = true) (hs : s.seq = .idle)
    (ht : exec i s = .next t) : ∃ l, t.trace = s.trace ++ l ∧ FailsOnlyLast t l := by
  obtain ⟨op, addr, a, b, -, he⟩ | ⟨-, he⟩ | ⟨-, hnone, -⟩ := exec_idle i hs
  · obtain rfl := Host.Outcome.next.inj (he.symm.trans ht)
    exact State.resume_failsOnlyLast (s := s.accept op addr a b) rfl
  · obtain rfl := Host.Outcome.next.inj (he.symm.trans ht)
    exact ⟨[], by simp [refusedState], failsOnlyLast_of_all rfl fun _ => by simp [refusedState]⟩
  · simp [hnone] at hi

/-- In BUSY, with no reset at the head of the inputs, a step goes on with the operation in progress (R22). -/
theorem step_busy {s : State} {op : Operation} {k : Nat} (hs : s.seq = .busy op k)
    (hi : s.inputs.head? ≠ some .reset) : step s = .next s.resume := by
  obtain ⟨rest, h, -⟩ | ⟨_, _, -, h⟩ | ⟨h, -⟩ | ⟨_, _, h, -⟩ | ⟨_, _, _, h, -⟩ := step_cases s
  · simp [h] at hi
  · exact h
  all_goals cases hs.symm.trans h

/-- Settles O39: acceptance and every later step are runs, or change no trace. -/
theorem nothingFollowsAFailedExchange : Obligations.NothingFollowsAFailedExchange := by
  intro s t h
  have hrun : ∃ l, t.trace = s.trace ++ l ∧ FailsOnlyLast t l := by
    obtain ⟨i, hi, hs, ht⟩ | ⟨op, k, hs, hin, ht⟩ := h
    · exact exec_failsOnlyLast hi hs ht
    · obtain rfl := Host.Outcome.next.inj ((step_busy hs hin).symm.trans ht)
      exact State.resume_failsOnlyLast hs
  obtain ⟨l, htrace, hl⟩ := hrun
  exact ⟨l, htrace, hl.init, hl.last, hl.ending⟩

end Sys2Proof.Machine
end

section
/-! SUPPORT and PROOF for the invariant of every step (R21, R22, R25, R101, R103 (d), R170): what a refusal, a run and a
reset of the block keep of it. -/
namespace Sys2Proof.Machine
open Sys2Proof.Safety

/-- In IDLE the sequencer state asks nothing. -/
theorem seqSound_idle {s : State} (hs : s.seq = .idle) : seqSound s := by
  rw [seqSound, hs]; trivial

/-- However a run ends, the sequencer is sound and no data of a failed operation is kept. -/
theorem RunEnd.sound {s t : State} {op : Operation} {k : Nat} {l : List TraceEntry} (h : RunEnd s t op k l)
    (hv : s.res.valid = false) : seqSound t ∧ noLeak t.res := by
  cases h with
  | waiting seq bound res all =>
    rw [← res] at hv
    exact ⟨by rw [seqSound, seq]; exact ⟨bound, hv⟩, fun h => by simp [hv] at h⟩
  | ok seq last all valid status => exact ⟨seqSound_idle seq, fun _ h => absurd status h⟩
  | frameError seq some count all valid status data => exact ⟨seqSound_idle seq, fun _ _ => data⟩
  | failed l' tx c seq eq all res => exact ⟨seqSound_idle seq, fun _ _ => by rw [res]⟩

end Sys2Proof.Machine

namespace Sys2Proof.Safety
open Sys2Proof.Machine

/-- A busy block that meets the invariant has an exchange of its plan to make, and no valid result. -/
theorem Inv.busy_lt {s : State} (h : Inv s) {op : Operation} {k : Nat} (hs : s.seq = .busy op k) :
    k < op.plan.length ∧ s.res.valid = false := by
  have := h.seq
  rwa [seqSound, hs] at this

/-- A state that differs from an idle one in its output, its counter and its placed inputs alone, with a result that
leaks no data. -/
theorem Inv.of_idle {s t : State} (h : Inv s) (hs : t.seq = .idle) (hcfg : t.cfg = s.cfg)
    (hbus : t.ownsBus = true) (htrace : t.trace = s.trace) (hres : Safety.noLeak t.res) : Inv t where
  ownsBus := hbus
  layout  := hcfg ▸ h.layout
  seq     := seqSound_idle hs
  noLeak  := hres
  frames  := htrace ▸ h.frames

/-- Accepting an operation (R26 (a)): no valid result, and no exchange made of a plan that has one. -/
theorem Inv.accept {s : State} (h : Inv s) (op : Operation) (addr : Addr) (a b : RegValue) :
    Inv (s.accept op addr a b) where
  ownsBus := h.ownsBus
  layout  := h.layout
  seq     := ⟨op.plan_length.1, rfl⟩
  noLeak  := nofun
  frames  := h.frames

/-- A refusal keeps no data (R100, R243). -/
theorem Inv.refused {s : State} (h : Inv s) (hs : s.seq = .idle) : Inv (refusedState s) :=
  h.of_idle hs rfl h.ownsBus rfl fun _ _ => rfl

/-- A run of the operation in progress keeps the invariant. -/
theorem Inv.advance {s : State} (h : Inv s) {op : Operation} {k : Nat} (hs : s.seq = .busy op k) (n : Nat) :
    Inv (s.advance n) := by
  obtain ⟨hk, hv⟩ := h.busy_lt hs
  obtain ⟨l, htrace, -, -, hframes, -, hend⟩ := State.advance_run n hs hk
  obtain ⟨hcfg, hbus, -, -⟩ := s.advance_context n
  obtain ⟨hseq, hleak⟩ := hend.sound hv
  refine ⟨hbus.trans h.ownsBus, hcfg ▸ h.layout, hseq, hleak, fun x hx => ?_⟩
  rw [htrace, List.mem_append] at hx
  exact hx.elim (h.frames x) (hframes x)

/-- Every instruction taken in IDLE keeps the invariant. -/
theorem Inv.exec {s t : State} (h : Inv s) {i : Instr} (hs : s.seq = .idle) (ht : exec i s = .next t) : Inv t := by
  obtain ⟨op, addr, a, b, -, he⟩ | ⟨-, he⟩ | ⟨-, -, ⟨o, he⟩ | he⟩ := exec_idle i hs <;>
    obtain rfl := Host.Outcome.next.inj (he.symm.trans ht)
  · exact (h.accept op addr a b).advance rfl 4
  · exact h.refused hs
  · exact h.of_idle hs rfl h.ownsBus rfl h.noLeak
  · exact h.of_idle hs rfl h.ownsBus rfl fun _ _ => rfl

/-- What the host has placed is no part of the invariant. -/
theorem Inv.withInputs {s : State} (h : Inv s) (rest : List Input) : Inv { s with inputs := rest } :=
  ⟨h.ownsBus, h.layout, h.seq, h.noLeak, h.frames⟩

/-- Settles O52: a reset of the block, a resumption, nothing, or an instruction. -/
theorem stepKeepsTheInvariant : Obligations.StepKeepsTheInvariant := by
  intro s t h ht
  obtain ⟨rest, -, he⟩ | ⟨op, k, hs, he⟩ | ⟨-, -, he⟩ | ⟨i, rest, hs, -, he⟩ | ⟨_, _, _, -, -, -, he⟩ := step_cases s <;>
    rw [ht] at he
  · cases he
    exact h.of_idle rfl rfl rfl rfl nofun
  · cases he
    exact h.advance hs 4
  · cases he
    exact h
  · exact (h.withInputs rest).exec hs he.symm
  · cases he

/-- Settles O51: IDLE, no valid result and an empty trace ask only for a layout the rules speak of. -/
theorem resetMeetsTheInvariant : Obligations.ResetMeetsTheInvariant := by
  have hreset : ∀ c : Config, c.wf = true → Inv (State.resetWith c) := fun c hc =>
    ⟨rfl, hc, trivial, nofun, nofun⟩
  exact ⟨hreset Config.default (by decide), hreset⟩

end Sys2Proof.Safety
end

section
/-! SUPPORT and PROOF for R147 and R283: scripted waits taken out of a run. A scripted wait leaves the block as it was, and
without one in front both environments give one answer, so resumption after resumption reaches what one resumption reaches
without the waits; what is left of the script and of the plan bounds how many it takes. -/
namespace Sys2Proof.Machine
open Sys2Proof.Safety

/-! ### The environment without its scripted waits -/

/-- The environment of `withoutWaits`. -/
def Env.withoutWaits (e : Env) : Env := { e with script := e.script.filter fun d => !isWait d }

theorem withoutWaits_frameFor (s : State) (op : Operation) (k : Nat) (st : Stage) :
    (withoutWaits s).frameFor op k st = s.frameFor op k st := by
  cases st <;> rfl

/-- A draw does not look at the draws after it. -/
theorem Env.withoutWaits_apply (e : Env) (tx : BytePair) (d : Draw) :
    e.withoutWaits.apply tx d = ((e.apply tx d).1, (e.apply tx d).2.withoutWaits) := by
  cases d <;> rfl

/-- Without a script there is nothing to take out. -/
theorem Env.withoutWaits_of_script_nil {e : Env} (h : e.script = []) : e.withoutWaits = e := by
  simp only [Env.withoutWaits, h, List.filter_nil]
  rw [← h]

/-- Where no wait stands first, the next exchange is the same with the waits taken out. -/
theorem Env.withoutWaits_exchange {e : Env} (h : ∀ ds, e.script ≠ .any .stall none :: ds) (tx : BytePair) :
    e.withoutWaits.exchange tx = ((e.exchange tx).1, (e.exchange tx).2.withoutWaits) := by
  cases hs : e.script with
  | nil =>
    rw [Env.withoutWaits_of_script_nil hs, Env.withoutWaits_of_script_nil (Env.exchange_script_nil hs tx)]
  | cons d ds =>
    have hd : isWait d = false := beq_eq_false_iff_ne.2 fun hd => h ds (hd ▸ hs)
    have hc : e.withoutWaits.script = d :: ds.filter fun d => !isWait d := by simp [Env.withoutWaits, hs, hd]
    rw [Env.exchange_script hs, Env.exchange_script hc]
    exact Env.withoutWaits_apply { e with script := ds } tx d

/-! ### The block without its scripted waits -/

/-- The use of a reply does not look at the script. -/
theorem withoutWaits_onReply (s : State) (op : Operation) (k : Nat) (rx : Frame) (st : Stage) :
    withoutWaits (s.onReply op k rx st) = (withoutWaits s).onReply op k rx st :=
  (congrArg (fun e : Env => { s.onReply op k rx st with env := e.withoutWaits }) (s.onReply_keeps_env op k rx st)).trans
    (s.onReply_env s.env.withoutWaits op k rx st).symm

/-- A scripted wait is taken, and the block stays as it was. -/
theorem State.resume_wait {s : State} {op : Operation} {k : Nat} {st : Stage} {ds : List Draw}
    (hs : s.seq = .busy op k) (hp : op.plan[k]? = some st) (hw : s.env.script = .any .stall none :: ds) :
    s.resume = { s with env := { s.env with script := ds } } :=
  State.advance_stall hs hp (Env.exchange_script hw _) 3

/-- How much a run has before it: the draws of the script, and the exchanges of the plan. -/
def State.ahead (s : State) : Nat :=
  s.env.script.length + match s.seq with
    | .idle => 0
    | .busy op k => op.plan.length - k

/-- A completed exchange takes none of the script away but at its front, and one exchange of the plan. -/
theorem State.ahead_onReply_lt {s : State} {op : Operation} {k : Nat} {st : Stage} {tx rx : Frame} {e : Env}
    (hs : s.seq = .busy op k) (hp : op.plan[k]? = some st) (he : e.script.length ≤ s.env.script.length) :
    ((s.received tx rx e).onReply op k rx st).ahead < s.ahead := by
  obtain ⟨hk, -⟩ := List.getElem?_eq_some_iff.1 hp
  obtain ⟨-, v, w, h⟩ | ⟨-, v, d, h⟩ | ⟨-, h⟩ := State.onReply_plan (s.received tx rx e) op k rx hp
  · simp only [h, State.ahead, State.received_env, State.received_seq, hs, countExchange_busy]; omega
  · simp only [h, State.ahead, State.finish_env, State.finish_seq, State.received_env, hs]; omega
  · simp only [h, State.ahead, State.raise_env, State.raise_seq, State.received_env, hs]; omega

/-- No exchange makes the script longer. -/
theorem Env.exchange_script_length (e : Env) (tx : BytePair) : (e.exchange tx).2.script.length ≤ e.script.length := by
  cases hs : e.script with
  | nil => simp [Env.exchange_script_nil hs]
  | cons d ds => simp [Env.exchange_script hs, Env.apply_script]

/-- Some number of resumptions, at least one, reaches what one resumption reaches without the waits. -/
theorem resumeTimes_withoutWaits (s : State) : ∃ n, withoutWaits (resumeTimes (n + 1) s) = (withoutWaits s).resume := by
  induction ha : s.ahead using Nat.strong_induction_on generalizing s with
  | _ a ih =>
  subst ha
  cases hs : s.seq with
  | idle =>
    exact ⟨0, by
      simp only [resumeTimes, State.resume, State.advance_idle hs, State.advance_idle (s := withoutWaits s) hs]⟩
  | busy op k =>
    cases hp : op.plan[k]? with
    | none =>
      exact ⟨0, by
        simp only [resumeTimes, State.resume, State.advance_pastPlan hs hp,
          State.advance_pastPlan (s := withoutWaits s) hs hp]⟩
    | some st =>
      by_cases hw : ∃ ds, s.env.script = .any .stall none :: ds
      · obtain ⟨ds, hw⟩ := hw
        have hlt : State.ahead { s with env := { s.env with script := ds } } < s.ahead := by simp [State.ahead, hw]
        obtain ⟨n, hn⟩ := ih _ hlt _ rfl
        refine ⟨n + 1, ?_⟩
        rw [resumeTimes, State.resume_wait hs hp hw, hn]
        simp [withoutWaits, hw, isWait]
      · have hx' := Env.withoutWaits_exchange (fun ds h => hw ⟨ds, h⟩) (toBytes (s.frameFor op k st))
        rw [← withoutWaits_frameFor] at hx'
        obtain ⟨rx, e, hx, -⟩ | ⟨c, e, hx, -⟩ | ⟨e, hx, -⟩ := s.exchange_cases (s.frameFor op k st) <;>
          rw [withoutWaits_frameFor, hx, ← withoutWaits_frameFor] at hx'
        · have he := s.env.exchange_script_length (toBytes (s.frameFor op k st))
          rw [hx] at he
          obtain ⟨n, hn⟩ := ih _ (State.ahead_onReply_lt hs hp he) _ rfl
          refine ⟨n, ?_⟩
          rw [resumeTimes, State.resume_reply hs hp hx, State.resume_reply (s := withoutWaits s) hs hp hx',
            withoutWaits_frameFor]
          rw [withoutWaits_onReply] at hn
          exact hn
        · refine ⟨0, ?_⟩
          rw [resumeTimes, State.resume, State.advance_fail hs hp hx, State.resume,
            State.advance_fail (s := withoutWaits s) hs hp hx', withoutWaits_frameFor]
          rfl
        · refine ⟨0, ?_⟩
          rw [resumeTimes, State.resume, State.advance_stall hs hp hx, State.resume,
            State.advance_stall (s := withoutWaits s) hs hp hx']
          rfl

/-- Settles O53: by `resumeTimes_withoutWaits`, an induction over what the run has before it. -/
theorem waitingChangesNothing : Obligations.WaitingChangesNothing := fun s =>
  let ⟨n, hn⟩ := resumeTimes_withoutWaits s
  ⟨n + 1, hn⟩

end Sys2Proof.Machine
end

section
/-! SUPPORT and PROOF for R20 and R76: two runs of one operation, from blocks with different pasts. What a run reads of the
block is the parameters, the environment, the operands latched, and, from its third exchange on, the working registers,
which its own second reply has written by then. -/
namespace Sys2Proof.Machine
open Sys2Proof.Safety

/-- Two blocks that a run does not tell apart, but for the working registers: T and T' are their traces before it. -/
structure Alike (T T' : List TraceEntry) (s s' : State) : Prop where
  cfg   : s'.cfg = s.cfg
  env   : s'.env = s.env
  seq   : s'.seq = s.seq
  addr  : s'.req.addr = s.req.addr
  a     : s'.req.a = s.req.a
  b     : s'.req.b = s.req.b
  res   : SameResult s.res s'.res
  trace : ∃ l, s.trace = T ++ l ∧ s'.trace = T' ++ l

/-- The working registers are alike from the third exchange of an operation on; s1 where the operation uses it. -/
def SameWork (s s' : State) : Prop :=
  ∀ op k, s.seq = .busy op k → 2 ≤ k → s'.img = s.img ∧ (op = .getFaultStatus → s'.s1 = s.s1)

theorem sameWork_idle {s s' : State} (h : s.seq = .idle) : SameWork s s' := fun _ _ hb => by
  cases h.symm.trans hb

/-- A read's first exchange is an operation's first or third; a write-back is its third, and a plain write sends its own
operand. -/
theorem Operation.plan_place {op : Operation} {k : Nat} :
    (op.plan[k]? = some .readFirst → k ≠ 1) ∧
    (op.plan[k]? = some .write → op = .rawWrite ∨ op = .writeRegister ∨ 2 ≤ k) := by
  cases op <;> rcases k with _ | _ | k <;> simp [Operation.plan]

/-- A use of a read's value stays with the operation. -/
theorem State.afterRead_op {s : State} {op op' : Operation} {k k' j : Nat} (hs : s.seq = .busy op j)
    (hb : (s.afterRead op k).seq = .busy op' k') : op' = op := by
  cases op
  case getFaultStatus =>
    simp only [State.afterRead] at hb
    split at hb <;> simp_all
  all_goals simp_all [State.afterRead]

section
variable {T T' : List TraceEntry} {s s' : State} (h : Alike T T' s s')
include h

theorem Alike.target_eq (op : Operation) (k : Nat) : s'.target op k = s.target op k := by
  simp only [State.target, h.cfg, h.addr]

/-- Both runs send the same frame. -/
theorem Alike.frameFor_eq (hw : SameWork s s') {op : Operation} {k : Nat} {st : Stage} (hs : s.seq = .busy op k)
    (hp : op.plan[k]? = some st) : s'.frameFor op k st = s.frameFor op k st := by
  cases st with
  | readFirst => simp only [State.frameFor, h.target_eq]
  | readSecond => simp only [State.frameFor, h.target_eq]
  | write =>
    have hv : s'.writeValue op = s.writeValue op := by
      obtain rfl | rfl | hk := Operation.plan_place.2 hp
      · exact h.b
      · exact h.b
      · simp only [State.writeValue, h.b, (hw op k hs hk).1]
    simp only [State.frameFor, h.target_eq, hv]

/-- The exchanges so far, and one more. -/
theorem Alike.trace_append (x : TraceEntry) : ∃ l, s.trace ++ [x] = T ++ l ∧ s'.trace ++ [x] = T' ++ l := by
  obtain ⟨l, hl, hl'⟩ := h.trace
  exact ⟨l ++ [x], by rw [hl, List.append_assoc], by rw [hl', List.append_assoc]⟩

theorem Alike.received (tx rx : Frame) (e : Env) : Alike T T' (s.received tx rx e) (s'.received tx rx e) :=
  ⟨h.cfg, rfl, congrArg countExchange h.seq, h.addr, h.a, h.b, h.res, h.trace_append _⟩

/-- The working registers are no part of `Alike`. -/
theorem Alike.withWork (v w v' w' : RegValue) :
    Alike T T' { s with img := v, s1 := w } { s' with img := v', s1 := w' } :=
  ⟨h.cfg, h.env, h.seq, h.addr, h.a, h.b, h.res, h.trace⟩

theorem Alike.finish {d d' : BitVec 16} (hd : d' = d) : Alike T T' (s.finish d) (s'.finish d') :=
  ⟨h.cfg, h.env, rfl, h.addr, h.a, h.b, ⟨rfl, fun _ => ⟨rfl, hd.symm, nofun⟩⟩, h.trace⟩

/-- The same error, and the same cause where the host may read it (R243). -/
theorem Alike.raise (e : OpError) : Alike T T' (s.raise e) (s'.raise e) := by
  refine ⟨h.cfg, h.env, rfl, h.addr, h.a, h.b, ⟨rfl, fun _ => ⟨rfl, rfl, fun he => ?_⟩⟩, h.trace⟩
  cases e with
  | transport c => rfl
  | frameError => cases he
  | notSupported => cases he

theorem Alike.failed (tx : Frame) (c : TransportCause) (e : Env) :
    Alike T T' (State.raise { s with env := e, trace := s.trace ++ [.failed tx c] } (.transport c))
      (State.raise { s' with env := e, trace := s'.trace ++ [.failed tx c] } (.transport c)) :=
  Alike.raise (s := { s with env := e, trace := s.trace ++ [.failed tx c] })
    (s' := { s' with env := e, trace := s'.trace ++ [.failed tx c] })
    ⟨h.cfg, rfl, h.seq, h.addr, h.a, h.b, h.res, h.trace_append _⟩ _

theorem Alike.waiting (e : Env) : Alike T T' { s with env := e } { s' with env := e } :=
  ⟨h.cfg, rfl, h.seq, h.addr, h.a, h.b, h.res, h.trace⟩

/-- What follows a read that gave both the same value. -/
theorem Alike.afterRead (himg : s'.img = s.img) {op : Operation} {k : Nat}
    (hs1 : op = .getFaultStatus → 2 ≤ k → s'.s1 = s.s1) :
    Alike T T' (s.afterRead op k) (s'.afterRead op k) ∧ (s'.afterRead op k).img = (s.afterRead op k).img ∧
      (op = .getFaultStatus → (s'.afterRead op k).s1 = (s.afterRead op k).s1) := by
  have hmut : s'.mutation op = s.mutation op := by simp only [State.mutation, h.cfg, h.a, h.b]
  cases op
  case rawRead | readRegister => exact ⟨h.finish (by rw [himg]), himg, nofun⟩
  case hasFault | getDeviceId => exact ⟨h.finish (by rw [himg, h.cfg]), himg, nofun⟩
  case rawWrite | writeRegister => exact ⟨h, himg, nofun⟩
  case getFaultStatus =>
    simp only [State.afterRead]
    split
    · exact ⟨h.withWork s.img s.img s'.img s'.img, himg, fun _ => himg⟩
    · next hk =>
      have hs1 := hs1 rfl (Nat.not_lt.1 hk)
      exact ⟨h.finish (by rw [himg, hs1, h.cfg]), himg, fun _ => hs1⟩
  all_goals
    refine ⟨h.withWork _ s.s1 _ s'.s1, ?_, nofun⟩
    simp only [State.afterRead, himg, hmut]

/-- The use of one reply by both. -/
theorem Alike.reply (hw : SameWork s s') {op : Operation} {k : Nat} {st : Stage} (hs : s.seq = .busy op k)
    (hp : op.plan[k]? = some st) (tx rx : Frame) (e : Env) :
    Alike T T' ((s.received tx rx e).onReply op k rx st) ((s'.received tx rx e).onReply op k rx st) ∧
      SameWork ((s.received tx rx e).onReply op k rx st) ((s'.received tx rx e).onReply op k rx st) := by
  have hr := h.received tx rx e
  cases st with
  | readFirst =>
    refine ⟨hr, fun op' k' hb hk => ?_⟩
    have hne := Operation.plan_place.1 hp
    obtain ⟨rfl, rfl⟩ : op = op' ∧ k + 1 = k' := by
      simpa [State.onReply, hs] using hb
    exact hw op k hs (by omega)
  | readSecond =>
    simp only [State.onReply]
    split
    · exact ⟨hr.raise _, sameWork_idle rfl⟩
    · obtain ⟨halike, himg, hs1⟩ := Alike.afterRead (op := op) (k := k)
        (hr.withWork (decodeResponse rx).2 s.s1 (decodeResponse rx).2 s'.s1) rfl
        fun hop hk => (hw op k hs hk).2 hop
      have hs' : ({ s.received tx rx e with img := (decodeResponse rx).2 } : State).seq = .busy op (k + 1) := by simp [hs]
      exact ⟨halike, fun _ _ hb _ => ⟨himg, fun hop => hs1 (State.afterRead_op hs' hb ▸ hop)⟩⟩
  | write =>
    simp only [State.onReply]
    rw [show writeFlagged (s'.received tx rx e).cfg rx = writeFlagged (s.received tx rx e).cfg rx from
      congrArg (writeFlagged · rx) h.cfg]
    split
    · exact ⟨hr.raise _, sameWork_idle rfl⟩
    · exact ⟨hr.finish rfl, sameWork_idle rfl⟩

end

/-- Two runs of one operation stay alike as far as the environment answers. -/
theorem Alike.advance {T T' : List TraceEntry} (n : Nat) {s s' : State} (h : Alike T T' s s') (hw : SameWork s s') :
    Alike T T' (s.advance n) (s'.advance n) := by
  induction n generalizing s s' with
  | zero => exact h
  | succ n ih =>
    cases hs : s.seq with
    | idle => rwa [State.advance_idle hs, State.advance_idle (h.seq.trans hs)]
    | busy op k =>
      have hs' : s'.seq = .busy op k := h.seq.trans hs
      cases hp : op.plan[k]? with
      | none => rwa [State.advance_pastPlan hs hp, State.advance_pastPlan hs' hp]
      | some st =>
        have hframe := h.frameFor_eq hw hs hp
        obtain ⟨rx, e, hx, -⟩ | ⟨c, e, hx, -⟩ | ⟨e, hx, -⟩ := s.exchange_cases (s.frameFor op k st) <;>
          (have hx' := hx; rw [← hframe, ← h.env] at hx')
        · rw [State.advance_reply hs hp hx, State.advance_reply hs' hp hx', hframe]
          obtain ⟨h', hw'⟩ := h.reply hw hs hp (s.frameFor op k st) rx e
          exact ih h' hw'
        · rw [State.advance_fail hs hp hx, State.advance_fail hs' hp hx', hframe]
          exact h.failed _ c e
        · rw [State.advance_stall hs hp hx, State.advance_stall hs' hp hx']
          exact h.waiting e

/-- Two blocks right after they accepted the same operation (R26 (a)). -/
theorem alike_accept {s s' : State} (hcfg : s'.cfg = s.cfg) (henv : s'.env = s.env) (op : Operation) (addr : Addr)
    (a b : RegValue) :
    Alike s.trace s'.trace (s.accept op addr a b) (s'.accept op addr a b) ∧
      SameWork (s.accept op addr a b) (s'.accept op addr a b) := by
  refine ⟨⟨hcfg, henv, rfl, rfl, rfl, rfl, ⟨rfl, nofun⟩, [], by simp⟩, fun op' k hb hk => ?_⟩
  obtain ⟨-, rfl⟩ : op = op' ∧ 0 = k := by simpa using hb
  omega

/-- Two blocks that refuse the same request (R100). -/
theorem alike_refused {s s' : State} (hs : s.seq = .idle) (hs' : s'.seq = .idle) (henv : s'.env = s.env) :
    (refusedState s').env = (refusedState s).env ∧ (refusedState s').seq = (refusedState s).seq ∧
      SameResult (refusedState s).res (refusedState s').res :=
  ⟨henv, hs'.trans hs.symm, rfl, fun _ => ⟨rfl, rfl, nofun⟩⟩

/-- Settles O54: both runs are accepted or both refused, and runs from alike blocks stay alike. -/
theorem operationsForgetTheirPast : Obligations.OperationsForgetTheirPast := by
  intro s s' i hi hs hs' hcfg henv
  obtain ⟨op, hop⟩ := Option.isSome_iff_exists.1 hi
  obtain ⟨legal, addr, a, b, he, -⟩ := exec_operation hop
  rw [he, he, hcfg]
  cases legal s.cfg with
  | true =>
    obtain ⟨halike, hwork⟩ := alike_accept hcfg henv op addr a b
    have h := halike.advance 4 hwork
    obtain ⟨l, hl, hl'⟩ := h.trace
    exact ⟨_, _, l, State.request_accepted hs .., State.request_accepted hs' .., hl, hl', h.env, h.seq, h.res⟩
  | false =>
    obtain ⟨h1, h2, h3⟩ := alike_refused hs hs' henv
    exact ⟨_, _, [], State.request_refused hs .., State.request_refused hs' .., by simp [refusedState],
      by simp [refusedState], h1, h2, h3⟩

end Sys2Proof.Machine
end

section
/-! SUPPORT and PROOF for the encodings (R90 to R100, R104): a request word by its fields, and a word of each row. -/
namespace Sys2Proof
open Sys2Proof.Machine Sys2Proof.Safety

/-- An unassigned OP is a set bit and four free ones (R100). -/
theorem unassignedOp_fields {op : BitVec 5} (h : 16 ≤ op.toNat) : 1#1 ++ op.extractLsb' 0 4 = op := by
  revert op; decide

theorem unassignedOp_toNat (opLow : BitVec 4) :
    16 ≤ (1#1 ++ opLow).toNat ∧ (1#1 ++ opLow).extractLsb' 0 4 = opLow := by
  revert opLow; decide

/-- A word with RSV = 0 and an OP from 0x10 on selects no operation (R100). -/
theorem decodeRequest_unassigned {w : ReqWord} (h31 : w.getLsbD 31 = false) (hop : 16 ≤ (reqOp w).toNat) :
    decodeRequest w = .unassigned ((reqOp w).extractLsb' 0 4) (reqAddr w) (reqA w) (reqB w) := by
  simp only [decodeRequest, h31, Bool.false_eq_true, if_false]
  have hlt := (reqOp w).isLt
  interval_cases (reqOp w).toNat <;> rfl

/-- A word with RSV = 0, by its fields. -/
theorem request_of_fields {w : ReqWord} {op : BitVec 5} (h31 : w.getLsbD 31 = false) (hop : (reqOp w).toNat = op.toNat) :
    some (Encoded.request (packRequest op (reqAddr w) (reqA w) (reqB w))) = some (.request w) := by
  rw [← BitVec.eq_of_toNat_eq hop, packRequest_fields h31]

/-- A word with RSV = 1 is that bit and the rest (R100). -/
theorem rsvWord_of_fields {w : ReqWord} (h31 : w.getLsbD 31 = true) : 1#1 ++ w.extractLsb' 0 31 = w := by
  apply BitVec.eq_of_getLsbD_eq
  intro j hj
  rw [BitVec.getLsbD_append, BitVec.getLsbD_extractLsb']
  rcases (by omega : j < 31 ∨ j = 31) with h | rfl
  · simp [h]
  · simpa using h31.symm

/-- Encoding undoes decoding on every request word: the word is its OP, or its RSV bit, and the operands it carries. -/
theorem encode_decodeRequest (w : ReqWord) : encode (decodeRequest w) = some (.request w) := by
  cases h31 : w.getLsbD 31 with
  | true =>
    simp only [decodeRequest, h31, if_true, encode]
    rw [rsvWord_of_fields h31]
  | false =>
    rcases Nat.lt_or_ge (reqOp w).toNat 16 with hop | hop
    · simp only [decodeRequest, h31, Bool.false_eq_true, if_false]
      interval_cases hn : (reqOp w).toNat <;> exact request_of_fields h31 hn
    · rw [decodeRequest_unassigned h31 hop]
      exact request_of_fields h31 (by rw [unassignedOp_fields hop])

/-- R96's fields, as a number. -/
theorem packRequest_toNat (op : BitVec 5) (addr : Addr) (a b : RegValue) :
    (packRequest op addr a b).toNat = op.toNat * 2 ^ 26 + addr.toNat * 2 ^ 22 + a.toNat * 2 ^ 11 + b.toNat := by
  simp only [packRequest, append_toNat, BitVec.toNat_ofNat]
  omega

/-- Settles O58: a word is its fields, and they stand one after the other. -/
theorem encodeUndoesDecode : Obligations.EncodeUndoesDecode := ⟨encode_decodeRequest, packRequest_toNat⟩

/-- Decoding undoes encoding on the words of the requests, the refused words among them. -/
theorem decode_of_encode_request {i : Instr} {w : ReqWord} (h : encode i = some (.request w)) :
    decode (.request w) = .ok i := by
  cases i <;> simp only [encode, Option.map_eq_some_iff, Option.some.injEq, Encoded.request.injEq, reduceCtorEq,
    and_false, exists_false] at h <;> subst h
  case unassigned opLow addr a b =>
    obtain ⟨hop, hlow⟩ := unassignedOp_toNat opLow
    rw [decode, decodeRequest_unassigned (by simp) (by simpa using hop)]
    simp [hlow]
  case rsvSet rest =>
    obtain ⟨h31, hrest⟩ := rsvWord_fields rest
    simp only [decode, decodeRequest]
    rw [if_pos h31, hrest]
  all_goals simp [decode, decodeRequest]

/-- Decoding undoes encoding on the frame rows (R91 to R93). -/
theorem decode_of_encode_frame {i : Instr} {w : Encoded} (h : encode i = some w) (hw : ∀ v, w ≠ .request v) :
    decode w = .ok i := by
  cases i <;> simp only [encode, Option.some.injEq, reduceCtorEq] at h
  case writeFrame address value =>
    obtain ⟨f, hf, rfl⟩ := Option.map_eq_some_iff.1 h
    rw [encodeWrite] at hf
    split at hf
    · cases hf
    · cases hf
      simp [decode, decodeCommandFrame]
      omega
  case readFrame address =>
    obtain ⟨f, hf, rfl⟩ := Option.map_eq_some_iff.1 h
    rw [encodeRead] at hf
    split at hf
    · cases hf
    · cases hf
      simp [decode, decodeCommandFrame]
      omega
  case responseFrame frame =>
    subst h
    rfl
  all_goals exact absurd h.symm (hw _)

/-- Every request has a word, whatever its operand fields (R96, R97). -/
theorem request_has_word {i : Instr} (h : isRequest i = true) : ∃ w, encode i = some (.request w) := by
  cases i <;> simp only [isRequest, operationOf, Option.isSome, Bool.false_eq_true] at h <;> exact ⟨_, rfl⟩

/-- Settles O57: request words and frames apart. -/
theorem decodeUndoesEncode : Obligations.DecodeUndoesEncode := by
  refine ⟨fun i w _ h => ?_, fun i hi => ?_⟩
  · cases w with
    | request v => exact decode_of_encode_request h
    | command f => exact decode_of_encode_frame h nofun
    | response f => exact decode_of_encode_frame h nofun
  · obtain ⟨w, hw⟩ := request_has_word hi
    exact ⟨w, hw, decode_of_encode_request hw⟩

/-- Settles O59: each word is decoded by evaluation. -/
theorem wordsOfTheSpecDecode : Obligations.WordsOfTheSpecDecode := by
  unfold Obligations.WordsOfTheSpecDecode
  decide

/-- Settles O60: each line is assembled by evaluation. -/
theorem assemblerLinesOfTheSpec : Obligations.AssemblerLinesOfTheSpec := by
  unfold Obligations.AssemblerLinesOfTheSpec
  decide

end Sys2Proof
end

section
/-! SUPPORT and PROOF for the Frame Codec used alone (R120 to R128), and the frame of every pure function. -/
namespace Sys2Proof.Machine
open Sys2Proof.Safety

/-- A read frame is bit 15, the address and nothing else (R92). -/
theorem packRead_toNat (a : Addr) : (packRead a).toNat = 0x8000 + 0x0800 * a.toNat := by
  simp only [packRead, append_toNat, BitVec.toNat_ofNat]
  omega

/-- Settles O1: the checked encoders on operands in range. -/
theorem commandFramesAreBuiltFromTheirOperands : Obligations.CommandFramesAreBuiltFromTheirOperands := by
  intro s address value hs ha hv
  have hwrite := State.outputChecked_some hs (packWrite (BitVec.ofNat 4 address) (BitVec.ofNat 11 value))
  have hread := State.outputChecked_some hs (packRead (BitVec.ofNat 4 address))
  rw [← encodeWrite_ok ha hv] at hwrite
  rw [← encodeRead_ok ha] at hread
  have haddr : (BitVec.ofNat 4 address).toNat = address := Nat.mod_eq_of_lt (by omega)
  have hvalue : (BitVec.ofNat 11 value).toNat = value := Nat.mod_eq_of_lt (by omega)
  exact ⟨⟨_, hwrite, by simp, by rw [packWrite_addr, haddr], by rw [packWrite_payload, hvalue]⟩,
    _, hread, by simp, by rw [packRead_addr, haddr], packRead_payload _, by rw [packRead_toNat, haddr]⟩

/-- Settles O2: the checked encoders on operands out of range. -/
theorem encodersRejectOperandsOutOfRange : Obligations.EncodersRejectOperandsOutOfRange := by
  intro s address value hs
  have hnone := State.outputChecked_none hs
  refine ⟨fun h => ?_, fun h => ?_⟩
  · rwa [← encodeWrite_reject h] at hnone
  · rwa [← encodeRead_reject h] at hnone

/-- Settles O3: both decoders write their fields to the output. -/
theorem framesAreSplitIntoTheirFields : Obligations.FramesAreSplitIntoTheirFields := by
  intro s f hs
  refine ⟨f.extractLsb' 11 4, f.extractLsb' 0 11, State.output_idle hs _, State.output_idle hs _, ?_, ?_⟩
  · rw [BitVec.extractLsb'_toNat, Nat.shiftRight_eq_div_pow]
  · rw [BitVec.extractLsb'_toNat, Nat.shiftRight_zero]

/-- Settles O4: TO_BYTES and FROM_BYTES by quotient and remainder. -/
theorem framesCrossAsBigEndianBytes : Obligations.FramesCrossAsBigEndianBytes := by
  refine ⟨fun s f hs => ⟨f.extractLsb' 8 8, f.extractLsb' 0 8, State.output_idle hs _, ?_, ?_⟩,
    fun s b0 b1 hs => ⟨fromBytes ⟨b0, b1⟩, State.output_idle hs _, ?_⟩⟩
  · rw [BitVec.extractLsb'_toNat, Nat.shiftRight_eq_div_pow]
    omega
  · rw [BitVec.extractLsb'_toNat, Nat.shiftRight_zero]
  · rw [show (fromBytes ⟨b0, b1⟩).toNat = b0.toNat * 2 ^ 8 + b1.toNat from append_toNat b0 b1]
    omega

/-- ENCODE_WRITE is injective (R128). -/
theorem packWrite_injective {a a' : Addr} {v v' : RegValue} (h : packWrite a v = packWrite a' v') :
    a = a' ∧ v = v' := by
  simpa using congrArg decodeCommand h

/-- No write frame is a read frame (R128). -/
theorem packWrite_ne_packRead (a a' : Addr) (v : RegValue) : packWrite a v ≠ packRead a' := fun h => by
  simpa using congrArg decodeCommand h

/-- Settles O5: the encoders accept every operand of the wire's widths, and give the packed frames. -/
theorem codecLaws : Obligations.CodecLaws :=
  ⟨fun a a' v v' => ⟨_, _, _, _, encodeWrite_toNat a v, encodeRead_toNat a, encodeWrite_toNat a' v', encodeRead_toNat a',
      decodeCommand_packWrite a v, decodeCommand_packRead a, by simp [decodeResponse, frameError, frameData],
      packRead_payload a, by simp, packWrite_injective, packWrite_ne_packRead a a' v⟩,
    fromBytes_toBytes⟩

/-- In BUSY no instruction is accepted (R22; log 10). -/
theorem exec_busy {s : State} {op : Operation} {k : Nat} (h : s.seq = .busy op k) (i : Instr) :
    exec i s = .next s := by
  obtain ⟨f, hf⟩ := exec_whenIdle i s
  exact hf.trans (State.whenIdle_busy h f)

/-- Settles O42: every instruction is done only in IDLE. -/
theorem busyBlockAcceptsNothing : Obligations.BusyBlockAcceptsNothing := fun _ i _ _ hs => exec_busy hs i

theorem State.seq_cases (s : State) : s.seq = .idle ∨ ∃ op k, s.seq = .busy op k := by
  cases s.seq with
  | idle => exact .inl rfl
  | busy op k => exact .inr ⟨op, k, rfl⟩

/-- Settles O6: in IDLE an output, checked or not; in BUSY nothing. -/
theorem pureFunctionsChangeNothingElse : Obligations.PureFunctionsChangeNothingElse := by
  intro s t i hi ht
  obtain hs | ⟨op, k, hs⟩ := s.seq_cases
  · obtain ⟨o, he⟩ | ⟨r, he, hr⟩ := exec_pure hi s
    · cases ht.symm.trans (he.trans (State.output_idle hs o))
      exact ⟨o, .inl rfl⟩
    · cases r with
      | some f =>
        cases ht.symm.trans (he.trans (State.outputChecked_some hs f))
        exact ⟨.frame f, .inl rfl⟩
      | none =>
        cases ht.symm.trans (he.trans (State.outputChecked_none hs))
        exact ⟨.none, .inr ⟨hr.1 rfl, rfl⟩⟩
  · cases ht.symm.trans (exec_busy hs i)
    exact ⟨s.out, .inl rfl⟩

/-- Settles O23: bit by bit, where the mask has a bit and where it has none. -/
theorem modifyIsIsolatedAndIdempotent : Obligations.ModifyIsIsolatedAndIdempotent := by
  intro old mask bits
  refine ⟨?_, ?_, ?_, ?_⟩
  · apply BitVec.eq_of_getLsbD_eq
    intro j hj
    rw [BitVec.getLsbD_and, BitVec.getLsbD_and, BitVec.getLsbD_not, modifyImage_getLsbD]
    cases mask.getLsbD j <;> simp
  · apply BitVec.eq_of_getLsbD_eq
    intro j hj
    simp only [modifyImage_getLsbD]
    cases mask.getLsbD j <;> rfl
  · rw [modifyImage, BitVec.not_zero, BitVec.and_allOnes, BitVec.and_zero, BitVec.or_zero]
  · rw [show 0x7FF#11 = BitVec.allOnes 11 by decide, modifyImage, BitVec.not_allOnes, BitVec.and_zero,
      BitVec.and_allOnes, BitVec.zero_or]

end Sys2Proof.Machine
end

section
/-! SUPPORT and PROOF for the statements about all instructions and all steps: refusals, resets, inputs, frames, and the
number of exchanges a run makes (R22 to R26, R34, R98 to R102, R243 to R248, R270, R271, R282). -/
namespace Sys2Proof.Machine
open Sys2Proof.Safety

/-! ### Errors, results, reset -/

/-- Settles O36: both words are refused in IDLE. -/
theorem unassignedWordsAreRefused : Obligations.UnassignedWordsAreRefused := by
  intro s opLow addr a b rest hs
  have hrefused : (s.whenIdle fun t => t.refuse) = .next (refusedState s) := by
    rw [State.whenIdle_idle hs, State.refuse_eq hs]
  exact ⟨hrefused, hrefused⟩

/-- Settles O38: the codes and the error entry are read off their definitions. -/
theorem errorEntryWritesTheResult : Obligations.ErrorEntryWritesTheResult :=
  ⟨⟨rfl, rfl, rfl, rfl⟩, fun _ _ => ⟨rfl, ⟨_, rfl⟩, ⟨_, rfl⟩⟩⟩

/-- Settles O45: by the valid bit, and for the cause by the status. -/
theorem resultReadsFaultWhenUnspecified : Obligations.ResultReadsFaultWhenUnspecified := by
  intro s
  refine ⟨fun hv => ?_, fun hv => ?_⟩ <;> simp +contextual [State.readStatus, State.readData, State.readCause, hv]

/-- Settles O46: each field is one of `State.resetWith`. -/
theorem resetState : Obligations.ResetState :=
  ⟨fun c => ⟨State.resetWith_seq c, State.resetWith_valid c, State.resetWith_ownsBus c, State.resetWith_cfg c,
    State.resetWith_trace c⟩, rfl⟩

/-! ### What a step takes from the inputs -/

/-- A reset of the block at the head of the inputs is taken in IDLE and in BUSY (R271). -/
theorem step_reset {s : State} {rest : List Input} (h : s.inputs = .reset :: rest) :
    step s = .next (State.blockReset { s with inputs := rest }) := by
  cases hs : s.seq <;> simp [step, State.fetch, State.take, hs, h]

/-- Settles O47: the reset is taken, and leaves what `State.blockReset` leaves. -/
theorem blockResetSendsNothing : Obligations.BlockResetSendsNothing := fun _ _ h =>
  ⟨_, step_reset h, rfl, rfl, rfl, rfl, rfl, rfl, rfl⟩

/-- Settles O48: in IDLE the first input is taken, a word decoded. -/
theorem stepRunsTheDecodedInstruction : Obligations.StepRunsTheDecodedInstruction := by
  intro s w i rest hs
  refine ⟨fun hi hd => ?_, fun hi => ?_⟩
  · simp [step, State.fetch, State.take, hs, hi, hd]
  · simp [step, State.fetch, State.take, hs, hi]

/-- Settles O49: nothing is fetched in IDLE, and in BUSY the operation goes on. -/
theorem stepWithoutARequest : Obligations.StepWithoutARequest := by
  refine ⟨fun s hs hi => ?_, fun s op k hs hi => ⟨step_busy hs hi, (s.advance_context 4).inputs⟩⟩
  simp [step, State.fetch, hs, hi]

/-! ### What is left unchanged -/

theorem sameContext_trans {s t u : State} (h : SameContext s t) (h' : SameContext t u) : SameContext s u :=
  ⟨h'.cfg.trans h.cfg, h'.ownsBus.trans h.ownsBus, h'.inputs.trans h.inputs, h'.out.trans h.out⟩

/-- Settles O41: in IDLE a run or a refusal, in BUSY nothing. -/
theorem operationsKeepTheContext : Obligations.OperationsKeepTheContext := by
  intro s t i hi ht
  obtain hs | ⟨op, k, hs⟩ := s.seq_cases
  · obtain ⟨op, addr, a, b, -, he⟩ | ⟨-, he⟩ | ⟨hp, -⟩ := exec_idle i hs
    · cases ht.symm.trans he
      exact sameContext_trans (sameContext_accept s op addr a b) (State.advance_context 4 _)
    · cases ht.symm.trans he
      exact ⟨rfl, rfl, rfl, rfl⟩
    · cases hi.symm.trans hp
  · cases ht.symm.trans (exec_busy hs i)
    exact sameContext_refl s

/-- What an instruction tells of its operation: whether it begins with a read, and whether it is GET_FAULT_STATUS. -/
theorem operationOf_working {i : Instr} {op : Operation} (h : operationOf i = some op) :
    (readsFirst i = false → Stage.readSecond ∉ op.plan) ∧
      ((∀ addr a b, i ≠ .getFaultStatus addr a b) → op ≠ .getFaultStatus) := by
  cases i <;> simp only [operationOf, Option.some.injEq, reduceCtorEq] at h <;> subst h <;>
    simp [readsFirst, operationOf, Operation.plan]

/-- Settles O44: in IDLE a run, a refusal or an output, in BUSY nothing. -/
theorem workingRegistersAreKept : Obligations.WorkingRegistersAreKept := by
  intro s t i ht
  obtain hs | ⟨op, k, hs⟩ := s.seq_cases
  · obtain ⟨op, addr, a, b, hop, he⟩ | ⟨-, he⟩ | ⟨-, -, ⟨o, he⟩ | he⟩ := exec_idle i hs <;> cases ht.symm.trans he
    · obtain ⟨himg, hs1, -⟩ := State.advance_working 4 (State.accept_seq s op addr a b)
      obtain ⟨hread, hstatus⟩ := operationOf_working hop
      exact ⟨fun h => himg (hread h), fun h => hs1 (hstatus h), fun h => by cases hop.symm.trans h⟩
    all_goals exact ⟨fun _ => rfl, fun _ => rfl, fun _ => ⟨rfl, rfl, rfl⟩⟩
  · cases ht.symm.trans (exec_busy hs i)
    exact ⟨fun _ => rfl, fun _ => rfl, fun _ => ⟨rfl, rfl, rfl⟩⟩

/-! ### What a run adds to the trace -/

/-- A run of n exchanges only adds to the trace, n entries at most (R246). -/
theorem State.advance_trace_length (n : Nat) (s : State) :
    ∃ l, (s.advance n).trace = s.trace ++ l ∧ l.length ≤ n := by
  obtain hs | ⟨op, k, hs⟩ := s.seq_cases
  · exact ⟨[], by simp [State.advance_idle hs], by simp⟩
  · rcases Nat.lt_or_ge k op.plan.length with hk | hk
    · obtain ⟨l, htrace, hl, -⟩ := State.advance_run n hs hk
      exact ⟨l, htrace, hl⟩
    · exact ⟨[], by simp [State.advance_pastPlan hs (List.getElem?_eq_none hk)], by simp⟩

/-- Settles O50: a step is a reset of the block, a resumption, nothing, or an instruction taken in IDLE. -/
theorem stepsKeepParametersAndTrace : Obligations.StepsKeepParametersAndTrace := by
  intro s t ht
  obtain ⟨rest, -, he⟩ | ⟨op, k, -, he⟩ | ⟨-, -, he⟩ | ⟨i, rest, hs, -, he⟩ | ⟨_, _, _, -, -, -, he⟩ := step_cases s <;>
    have he := ht.symm.trans he
  · cases he
    exact ⟨rfl, [], by simp, by simp⟩
  · cases he
    exact ⟨(s.advance_context 4).cfg, s.advance_trace_length 4⟩
  · cases he
    exact ⟨rfl, [], by simp, by simp⟩
  · obtain ⟨op, addr, a, b, -, he'⟩ | ⟨-, he'⟩ | ⟨-, -, ⟨o, he'⟩ | he'⟩ :=
      exec_idle i (s := { s with inputs := rest }) hs <;> cases he.trans he'
    · exact ⟨(State.advance_context 4 _).cfg, State.advance_trace_length 4 _⟩
    all_goals exact ⟨rfl, [], by simp [refusedState], by simp⟩
  · cases he

/-! ### How many exchanges a run makes -/

/-- The exchanges l made from exchange k of op on, counted by how t came to be (R282). -/
structure Counted (s t : State) (op : Operation) (k : Nat) (l : List TraceEntry) : Prop where
  busy    : ∀ op' k', t.seq = .busy op' k' → k' = k + l.length ∧ op' = op
  valid   : s.res.valid = false → t.res.valid = true → t.seq = .idle
  ok      : t.seq = .idle → t.res.status = .ok → k + l.length = op.plan.length
  ended   : t.seq = .idle → t.res.status ≠ .notSupported ∧ l ≠ []
  flagged : t.seq = .idle → t.res.status = .frameError → k + l.length = 2 ∨ k + l.length = op.plan.length

/-- However a run ends, its exchanges are counted. -/
theorem RunEnd.counted {s t : State} {op : Operation} {k : Nat} {l : List TraceEntry} (h : RunEnd s t op k l)
    (hk : k < op.plan.length) : Counted s t op k l := by
  cases h with
  | waiting seq bound res all =>
    have hne : t.seq ≠ .idle := by simp [seq]
    refine ⟨fun op' k' hb => ?_, fun hv hv' => ?_, fun h => absurd h hne, fun h => absurd h hne, fun h => absurd h hne⟩
    · cases seq.symm.trans hb
      exact ⟨rfl, rfl⟩
    · cases hv.symm.trans (res ▸ hv')
  | ok seq last all valid status =>
    refine ⟨fun _ _ hb => absurd hb (by simp [seq]), fun _ _ => seq, fun _ _ => last, fun _ => ⟨by simp [status], ?_⟩,
      fun _ h => by simp [status] at h⟩
    rintro rfl
    simp at last
    omega
  | frameError seq some count all valid status data =>
    exact ⟨fun _ _ hb => absurd hb (by simp [seq]), fun _ _ => seq, fun _ h => by simp [status] at h,
      fun _ => ⟨by simp [status], some⟩, fun _ _ => count⟩
  | failed l' tx c seq eq all res =>
    exact ⟨fun _ _ hb => absurd hb (by simp [seq]), fun _ _ => seq, fun _ h => by simp [res] at h,
      fun _ => ⟨by simp [res], by simp [eq]⟩, fun _ h => by simp [res] at h⟩

/-- The count on success is the length of the plan (R282). -/
theorem framesOnSuccess_eq {i : Instr} {op : Operation} (h : operationOf i = some op) :
    framesOnSuccess i = op.plan.length := by
  cases i <;> simp only [operationOf, Option.some.injEq, reduceCtorEq] at h <;> subst h <;> rfl

/-- Settles O40: one run in one step, from acceptance or from where it waits; a refusal makes no exchange. -/
theorem frameCounts : Obligations.FrameCounts := by
  refine ⟨fun s t i hi hs ht => ?_, fun s t i op k hop hs hk hin ht => ?_⟩
  · obtain ⟨op, addr, a, b, hop, he⟩ | ⟨-, he⟩ | ⟨hp, -⟩ := exec_idle i hs
    · cases ht.symm.trans he
      obtain ⟨l, htrace, h4, hle, -, -, hend⟩ :=
        State.advance_run 4 (State.accept_seq s op addr a b) op.plan_length.1
      have hc := hend.counted op.plan_length.1
      rw [framesOnSuccess_eq hop]
      simp only [Nat.zero_add] at hle hc
      refine ⟨l, htrace, hle, h4, fun op' k' hb => ?_, fun hv hst => ?_, fun hv hst => ?_, fun hv _ => ?_, fun hv hst => ?_⟩
      · obtain ⟨hk', rfl⟩ := hc.busy op' k' hb
        exact ⟨by omega, hop⟩
      · simpa using hc.ok (hc.valid rfl hv) hst
      · exact absurd hst (hc.ended (hc.valid rfl hv)).1
      · exact (hc.ended (hc.valid rfl hv)).2
      · simpa using hc.flagged (hc.valid rfl hv) hst
    · cases ht.symm.trans he
      exact ⟨[], by simp [refusedState], by simp, by simp, by simp [refusedState, hs], by simp [refusedState],
        by simp, by simp [refusedState], by simp [refusedState]⟩
    · cases hi.symm.trans hp
  · cases ht.symm.trans (step_busy hs hin)
    rw [framesOnSuccess_eq hop] at hk ⊢
    obtain ⟨l, htrace, -, hle, -, -, hend⟩ := State.advance_run 4 hs hk
    have hc := hend.counted hk
    exact ⟨l, htrace, hle, hc.busy, hc.ok, hc.ended, hc.flagged⟩

/-! ### Refusal -/

/-- Settles O37: the operands decide between the refusal and a run, and no run ends NOT_SUPPORTED. -/
theorem refusalIsDecidedByTheOperands : Obligations.RefusalIsDecidedByTheOperands := by
  intro s i hi hs
  obtain ⟨op, hop⟩ : ∃ op, operationOf i = some op := by
    cases i <;> simp only [isRequest, operationOf, Option.isSome, Bool.false_eq_true] at hi <;> exact ⟨_, rfl⟩
  obtain ⟨legal, addr, a, b, he, -, hlegal, -⟩ := exec_operation hop
  rw [he, hlegal hi]
  refine ⟨fun hw => ?_, fun hw => ?_⟩ <;> rw [hw]
  · exact State.request_refused hs op addr a b
  · refine ⟨_, State.request_accepted hs op addr a b, fun hv => ?_⟩
    obtain ⟨l, -, -, -, -, -, hend⟩ := State.advance_run 4 (State.accept_seq s op addr a b) op.plan_length.1
    have hc := hend.counted op.plan_length.1
    exact (hc.ended (hc.valid rfl hv)).1

end Sys2Proof.Machine
end

section
/-! SUPPORT and PROOF for the Register Map (R99, R170 to R180, R200): the field functions bit by bit at every layout, and as
numbers at the default one. -/
namespace Sys2Proof.Machine
open Sys2Proof.Safety

/-! ### Fields at every layout -/

/-- A code below 2 ^ w has no bit from w on. -/
theorem getLsbD_of_fits {code : RegValue} {w j : Nat} (h : code.toNat < 2 ^ w) (hj : w ≤ j) : code.getLsbD j = false := by
  rw [← BitVec.testBit_toNat]
  exact Nat.testBit_lt_two_pow (h.trans_le (Nat.pow_le_pow_right (by decide) hj))

/-- A field whose bits are a code's is that code, where the code fits (R172). -/
theorem extractField_eq_of_bits {l : FieldLayout} (h : l.wf = true) {x code : RegValue} {f : FieldName}
    (hfit : code.toNat < 2 ^ (l.slot f).width)
    (hbits : ∀ j, Covers (l.slot f) j → x.getLsbD j = code.getLsbD (j - (l.slot f).lsb)) :
    extractField l x f = code := by
  apply BitVec.eq_of_getLsbD_eq
  intro j _
  rw [extractField_getLsbD h]
  rcases Nat.lt_or_ge j (l.slot f).width with hj | hj
  · rw [hbits _ ⟨by omega, by omega⟩]
    simp [hj]
  · simp [getLsbD_of_fits hfit hj, Nat.not_lt.2 hj]

/-- A field all of whose bits two values share. -/
theorem extractField_congr {l : FieldLayout} (h : l.wf = true) {x v : RegValue} {f : FieldName}
    (hbits : ∀ j, Covers (l.slot f) j → x.getLsbD j = v.getLsbD j) : extractField l x f = extractField l v f := by
  apply BitVec.eq_of_getLsbD_eq
  intro j _
  rw [extractField_getLsbD h, extractField_getLsbD h]
  by_cases hj : j < (l.slot f).width
  · rw [hbits _ ⟨by omega, by omega⟩]
  · simp [hj]

/-- Settles O7: EXTRACT is an output, with the bits `extractField_getLsbD` gives. -/
theorem extractReadsTheFieldBits : Obligations.ExtractReadsTheFieldBits := fun _ v f hs hwf =>
  ⟨_, State.output_idle hs _, extractField_getLsbD hwf v f⟩

/-- Settles O8: INSERT is an output, with the bits `insertField_getLsbD` gives. -/
theorem insertReplacesOnlyTheField : Obligations.InsertReplacesOnlyTheField := fun _ v f code hs hwf _ =>
  ⟨_, State.output_idle hs _, insertField_getLsbD hwf v f code⟩

/-- A code that fits, at its field's place, has no bit outside the field (R99). -/
theorem placeCode_inside {l : FieldLayout} (h : l.wf = true) {f : FieldName} {code : RegValue}
    (hfit : code.toNat < 2 ^ (l.slot f).width) : placeCode l f code &&& ~~~(l.slot f).mask = 0#11 := by
  apply BitVec.eq_of_getLsbD_eq
  intro j hj
  rw [BitVec.getLsbD_and, BitVec.getLsbD_not, placeCode_getLsbD, Slot.mask_getLsbD (FieldLayout.slot_fits h f).2]
  by_cases hc : Covers (l.slot f) j
  · simp [hc]
  · rcases Nat.lt_or_ge j (l.slot f).lsb with hlt | hge
    · simp [hlt]
    · have := getLsbD_of_fits hfit (j := j - (l.slot f).lsb) (by omega)
      simp [this]

/-- Settles O15: the bits under the mask are the code's, the others the old ones. -/
theorem insertIsolatesTheField : Obligations.InsertIsolatesTheField := by
  intro c v code f hwf hadm
  obtain ⟨hfit, -⟩ : code.toNat < 2 ^ (c.layout.slot f).width ∧ _ := by simpa [FieldName.admits] using hadm
  refine ⟨placeCode_inside hwf hfit, extractField_eq_of_bits hwf hfit fun j hj => ?_, fun g hne hreg =>
    extractField_congr hwf fun j hj => ?_⟩
  · rw [insertField_getLsbD hwf, if_pos hj]
  · rw [insertField_getLsbD hwf, if_neg fun hf => hne (FieldLayout.covers_unique hwf hreg hj hf)]

/-! ### Records -/

/-- Re-encoding a decoded record gives the value back (R178): a bit that a field covers is that member's, any other is
reserved. -/
theorem encodeRecord_decodeRecord {l : FieldLayout} (h : l.wf = true) (r : Reg) (v : RegValue) :
    encodeRecord l (decodeRecord l r v) = v := by
  apply BitVec.eq_of_getLsbD_eq
  intro j _
  by_cases hc : ∃ f : FieldName, f.reg = r ∧ Covers (l.slot f) j
  · obtain ⟨f, hr, hc⟩ := hc
    obtain ⟨m, hm, rfl⟩ := recordMembers_complete (decodeRecord l r v) f (by simpa using hr)
    rw [encodeRecord_member h _ hm j hc, recordMembers_decodeRecord h r v m hm, extractField_getLsbD h,
      Nat.add_sub_cancel' hc.1]
    simp; omega
  · have hn : ∀ f : FieldName, f.reg = r → ¬ Covers (l.slot f) j := fun f hr hcov => hc ⟨f, hr, hcov⟩
    rw [encodeRecord_reserved h _ j (by simpa using hn), recordRsvd_decodeRecord, reservedBits_free h v hn]

/-- Settles O11: all four decoders are `decodeRecord` of their register. -/
theorem reencodingKeepsEveryBit : Obligations.ReencodingKeepsEveryBit := by
  intro s v hs hwf p hp
  obtain ⟨r, hr, he⟩ : ∃ r, p.2 = r ∧ exec p.1 s = s.output (.record (decodeRecord s.cfg.layout r v)) := by
    simp only [List.mem_cons, List.not_mem_nil, or_false] at hp
    obtain rfl | rfl | rfl | rfl := hp <;> exact ⟨_, rfl, rfl⟩
  refine ⟨decodeRecord s.cfg.layout r v, he.trans (State.output_idle hs _), by simp [hr],
    recordMembers_decodeRecord hwf r v, fun f hf => ?_, by simp [hr], ?_⟩
  · obtain ⟨m, hm, rfl⟩ := recordMembers_complete (decodeRecord s.cfg.layout r v) f (by simp [hf, hr])
    exact List.mem_map_of_mem hm
  · have hout := congrArg (s.output <| .regValue ·) (encodeRecord_decodeRecord hwf r v)
    exact hout.trans (State.output_idle hs _)

/-- Settles O12: bits that a field covers are its member's, and the others are the record's reserved bits. -/
theorem encodeRecordPlacesEveryMember : Obligations.EncodeRecordPlacesEveryMember := by
  intro s r hs hwf hfit
  refine ⟨_, State.output_idle hs _, fun m hm => extractField_eq_of_bits hwf (hfit m hm)
    fun j hj => encodeRecord_member hwf r hm j hj, ?_⟩
  apply BitVec.eq_of_getLsbD_eq
  intro j _
  by_cases hc : ∃ f : FieldName, f.reg = recordReg r ∧ Covers (s.cfg.layout.slot f) j
  · obtain ⟨f, hr, hc⟩ := hc
    rw [← hr, reservedBits_covered hwf _ hc, reservedBits_covered hwf _ hc]
  · have hn : ∀ f : FieldName, f.reg = recordReg r → ¬ Covers (s.cfg.layout.slot f) j := fun f hr hcov => hc ⟨f, hr, hcov⟩
    rw [reservedBits_free hwf _ hn, reservedBits_free hwf _ hn, encodeRecord_reserved hwf r j hn]

/-! ### The default layout -/

theorem defaultLayout_wf : FieldLayout.default.wf = true := by decide

/-- A field, as a number (R172). -/
theorem extractField_toNat {l : FieldLayout} (h : l.wf = true) (v : RegValue) (f : FieldName) :
    (extractField l v f).toNat = v.toNat / 2 ^ (l.slot f).lsb % 2 ^ (l.slot f).width := by
  apply Nat.eq_of_testBit_eq
  intro j
  rw [BitVec.testBit_toNat, extractField_getLsbD h, Nat.testBit_mod_two_pow, Nat.testBit_div_two_pow,
    BitVec.testBit_toNat, Nat.add_comm]

/-- A flag at the default layout is its bit (R171). -/
theorem extractFlag_default (v : RegValue) {f : FieldName} (hf : f.isFlag = true) :
    extractFlag FieldLayout.default v f = v.getLsbD (FieldLayout.default.slot f).lsb :=
  extractFlag_eq defaultLayout_wf v hf

/-- SR1 and CR1 have no reserved bits at the default layout; SR2 has 10:8 and 6:4, CR2 10:7 (R171). -/
theorem reservedBits_default (v : RegValue) :
    reservedBits FieldLayout.default .sr1 v = 0#11 ∧ reservedBits FieldLayout.default .sr2 v = v &&& 0x770#11 ∧
      reservedBits FieldLayout.default .cr1 v = 0#11 ∧ reservedBits FieldLayout.default .cr2 v = v &&& 0x780#11 := by
  have h : ∀ r m, ~~~coveredBits FieldLayout.default r = m → reservedBits FieldLayout.default r v = v &&& m :=
    fun _ _ hm => congrArg (v &&& ·) hm
  exact ⟨(h _ 0#11 (by decide)).trans BitVec.and_zero, h _ _ (by decide), (h _ 0#11 (by decide)).trans BitVec.and_zero,
    h _ _ (by decide)⟩

/-- A slice of a value under a mask that has all of the slice's bits. -/
theorem extractLsb'_and_of_ones {v m : RegValue} {start len : Nat}
    (hm : m.extractLsb' start len = BitVec.allOnes len) : (v &&& m).extractLsb' start len = v.extractLsb' start len := by
  rw [BitVec.extractLsb'_and, hm, BitVec.and_allOnes]

/-- DEVICE_ID at the default layout (R171). -/
theorem extractField_deviceId_default (v : RegValue) :
    extractField FieldLayout.default v .deviceId = (v.extractLsb' 0 4).setWidth 11 := by
  apply BitVec.eq_of_toNat_eq
  have h : _ = v.toNat / 2 ^ 0 % 2 ^ 4 := extractField_toNat defaultLayout_wf v .deviceId
  rw [h, BitVec.toNat_setWidth, BitVec.extractLsb'_toNat]
  omega

/-- DECODE_SR1 at the default layout (R174). -/
theorem decodeSr1_default (v : RegValue) : decodeSr1 FieldLayout.default v =
    { fault := v.getLsbD 10, gvddUv := v.getLsbD 9, pvddUv := v.getLsbD 8, otsd := v.getLsbD 7, otw := v.getLsbD 6,
      fethaOc := v.getLsbD 5, fetlaOc := v.getLsbD 4, fethbOc := v.getLsbD 3, fetlbOc := v.getLsbD 2,
      fethcOc := v.getLsbD 1, fetlcOc := v.getLsbD 0, rsvd := 0#11 } := by
  have h {f : FieldName} := extractFlag_default v (f := f)
  rw [decodeSr1, h rfl, h rfl, h rfl, h rfl, h rfl, h rfl, h rfl, h rfl, h rfl, h rfl, h rfl, (reservedBits_default v).1]
  rfl

/-- Settles O9: flags by their bits, DEVICE_ID as a number, the reserved bits under their mask. -/
theorem statusDecodersReadTheirBits : Obligations.StatusDecodersReadTheirBits := by
  intro s v hs hl
  have hsr1 := congrArg (s.output <| .record <| .sr1 ·) (decodeSr1_default v)
  obtain ⟨-, hrsvd, -⟩ := reservedBits_default v
  have hid := (extractField_toNat defaultLayout_wf v .deviceId).trans (congrArg (· % 16) (Nat.div_one v.toNat))
  rw [← hl] at hsr1
  refine ⟨hsr1.trans (State.output_idle hs _), _, State.output_idle hs _, ?_⟩
  rw [hl]
  refine ⟨extractFlag_default v rfl, hid, ?_, ?_⟩
  · rw [sr2RsvdHi, decodeSr2, hrsvd, extractLsb'_and_of_ones (by decide)]
  · rw [sr2RsvdMid, decodeSr2, hrsvd, extractLsb'_and_of_ones (by decide)]

/-- Settles O10: every field as a number, the reserved bits under their mask. -/
theorem controlDecodersReadTheirBits : Obligations.ControlDecodersReadTheirBits := by
  intro s v hs hl
  obtain ⟨-, -, hrsvd1, hrsvd2⟩ := reservedBits_default v
  have h := extractField_toNat defaultLayout_wf v
  have hlow := congrArg (· % 4) (Nat.div_one v.toNat)
  have hadj : _ = v.toNat / 2 ^ 6 % 2 ^ 5 := h .ocAdjSet
  refine ⟨⟨_, State.output_idle hs _, ?_⟩, _, State.output_idle hs _, ?_⟩ <;> rw [hl]
  · exact ⟨hadj.trans (by omega), h .ocpMode, h .pwmMode, h .gateReset, (h .gateCurrent).trans hlow, hrsvd1⟩
  · refine ⟨h .ocToff, h .dcCalCh2, h .dcCalCh1, h .gain, (h .octwMode).trans hlow, ?_⟩
    rw [cr2Rsvd, decodeCr2, hrsvd2, extractLsb'_and_of_ones (by decide)]

/-- The aggregate at the default layout (R179). -/
theorem faultStatusOf_default (v1 v2 : RegValue) : faultStatusOf FieldLayout.default v1 v2 =
    { fault := v1.getLsbD 10, gvddUv := v1.getLsbD 9, pvddUv := v1.getLsbD 8, otsd := v1.getLsbD 7,
      otw := v1.getLsbD 6, fethaOc := v1.getLsbD 5, fetlaOc := v1.getLsbD 4, fethbOc := v1.getLsbD 3,
      fetlbOc := v1.getLsbD 2, fethcOc := v1.getLsbD 1, fetlcOc := v1.getLsbD 0,
      gvddOv := v2.getLsbD 7, deviceId := (v2.extractLsb' 0 4).setWidth 11 } := by
  have h {v : RegValue} {f : FieldName} := extractFlag_default v (f := f)
  rw [faultStatusOf, h rfl, h rfl, h rfl, h rfl, h rfl, h rfl, h rfl, h rfl, h rfl, h rfl, h rfl, h rfl,
    extractField_deviceId_default]
  rfl

/-- The three parts of the packed form, at every layout (R179). -/
theorem packFaultStatus_parts (l : FieldLayout) (v1 v2 : RegValue) :
    (packFaultStatus l v1 v2).extractLsb' 0 11 = v1 ∧
      (packFaultStatus l v1 v2).getLsbD 11 = (extractField l v2 .gvddOv).getLsbD 0 ∧
      (packFaultStatus l v1 v2).extractLsb' 12 4 = (extractField l v2 .deviceId).extractLsb' 0 4 := by
  refine ⟨?_, packFaultStatus_getLsbD l v1 v2 11, ?_⟩ <;> apply BitVec.eq_of_getLsbD_eq <;> intro j hj <;>
    rw [BitVec.getLsbD_extractLsb', packFaultStatus_getLsbD]
  · simp [hj]
  · rw [if_neg (by omega), if_neg (by omega), BitVec.getLsbD_extractLsb', Nat.add_sub_cancel_left, Nat.zero_add]
    simp [hj]; omega

/-- Settles O13: the aggregate's members are the decoders', and the packed form has its three parts. -/
theorem faultStatusCollectsBothRegisters : Obligations.FaultStatusCollectsBothRegisters := by
  intro s v1 v2 hs
  obtain ⟨hlow, hov, hid⟩ := packFaultStatus_parts s.cfg.layout v1 v2
  refine ⟨_, _, _, _, State.output_idle hs _, State.output_idle hs _, State.output_idle hs _, rfl, hlow, hov, hid,
    fun hl => ?_⟩
  rw [hov, hid, hl]
  refine ⟨?_, ?_, faultStatusOf_default v1 v2⟩
  · rw [extractField_getLsbD defaultLayout_wf]; rfl
  · rw [extractField_deviceId_default]
    apply BitVec.eq_of_toNat_eq
    simp only [BitVec.extractLsb'_toNat, BitVec.toNat_setWidth]
    omega

/-- Settles O14: the tables by evaluation; a code is reserved in the table's two fields only. -/
theorem defaultParametersAreTheTable : Obligations.DefaultParametersAreTheTable := by
  refine ⟨rfl, rfl, rfl, defaultLayout_wf, by decide, fun f code => ?_⟩
  have hreserved : Config.default.isReserved f code = true ↔ (f = .gateCurrent ∨ f = .octwMode) ∧ code = 3#11 := by
    simp [Config.isReserved, Config.default, or_and_right]
  rw [FieldName.admits, Bool.and_eq_true, decide_eq_true_eq, Bool.not_eq_true', ← hreserved, Bool.not_eq_true]
  rfl

end Sys2Proof.Machine
end

section
/-! SUPPORT and PROOF for the first read and the first frame of every operation (R26, R140 to R146, R241): a well-formed
operation is accepted, and its first exchanges are read off its plan. -/
namespace Sys2Proof.Machine
open Sys2Proof.Safety

/-- What has a first register is an operation. -/
theorem operation_of_firstRegister {c : Config} {i : Instr} {a : Addr} (h : firstRegister c i = some a) :
    ∃ op, operationOf i = some op := by
  cases i <;> simp only [firstRegister, reduceCtorEq] at h <;> exact ⟨_, rfl⟩

/-- An operation begins with a read, or is a plain write. -/
theorem plan_of_readsFirst_cases {i : Instr} {op : Operation} (h : operationOf i = some op) :
    (readsFirst i = true ∧ ∃ rest, op.plan = .readFirst :: .readSecond :: rest) ∨
      (readsFirst i = false ∧ op.plan = [.write]) := by
  cases i <;> simp only [operationOf, Option.some.injEq, reduceCtorEq] at h <;> subst h <;>
    simp [readsFirst, operationOf, Operation.plan]

/-- A well-formed operation in IDLE is accepted and run: the register its first exchange goes to, the operands of a plain
write, and the word it latches. -/
theorem exec_accepted {s : State} {i : Instr} {op : Operation} (hs : s.seq = .idle) (hw : i.wellFormed s.cfg = true)
    (hop : operationOf i = some op) :
    ∃ addr x y, exec i s = .next ((s.accept op addr x y).advance 4) ∧
      firstRegister s.cfg i = some ((s.accept op addr x y).target op 0) ∧
      (readsFirst i = false →
        (i = .rawWrite addr x y ∧ op = .rawWrite ∨ i = .writeRegister addr y ∧ op = .writeRegister)) ∧
      ∀ w, encode i = some (.request w) →
        (s.accept op addr x y).req = ⟨reqOp w, reqAddr w, reqA w, reqB w⟩ := by
  obtain ⟨legal, addr, x, y, he, hlegal, -, hfirst, hplain, henc⟩ := exec_operation hop
  refine ⟨addr, x, y, ?_, hfirst s, hplain, fun w hw => ?_⟩
  · rw [he, hlegal _ hw, State.request_accepted hs]
  · obtain ⟨c, hc, rfl⟩ := henc w hw
    simp [hc]

/-- Its first exchange sends the read frame of its register, or its write frame. -/
theorem exec_firstFrame {s : State} {i : Instr} {op : Operation} {a : Addr} {f : Frame} (hs : s.seq = .idle)
    (hw : i.wellFormed s.cfg = true) (hop : operationOf i = some op) (ha : firstRegister s.cfg i = some a)
    (hread : readsFirst i = true → f = packRead a)
    (hwrite : ∀ b v, i = .rawWrite b 0 v ∨ i = .writeRegister b v → f = packWrite b v) :
    ∃ addr x y st, exec i s = .next ((s.accept op addr x y).advance 4) ∧ op.plan[0]? = some st ∧
      (s.accept op addr x y).frameFor op 0 st = f ∧
      ∀ w, encode i = some (.request w) →
        (s.accept op addr x y).req = ⟨reqOp w, reqAddr w, reqA w, reqB w⟩ := by
  obtain ⟨addr, x, y, he, hfirst, hplain, hreq⟩ := exec_accepted hs hw hop
  obtain ⟨hr, rest, hp⟩ | ⟨hr, hp⟩ := plan_of_readsFirst_cases hop
  · refine ⟨addr, x, y, .readFirst, he, by rw [hp]; rfl, ?_, hreq⟩
    rw [hread hr]
    exact congrArg packRead (Option.some.inj (hfirst.symm.trans ha))
  · refine ⟨addr, x, y, .write, he, by rw [hp]; rfl, ?_, hreq⟩
    obtain ⟨rfl, rfl⟩ | ⟨rfl, rfl⟩ := hplain hr
    · obtain rfl : x = 0#11 := by simpa [Instr.wellFormed] using hw
      exact (hwrite addr y (.inl rfl)).symm
    · exact (hwrite addr y (.inr rfl)).symm

/-- Where it begins with a read, both exchanges of that read go to its register. -/
theorem exec_firstRead {s : State} {i : Instr} {op : Operation} {a : Addr} (hs : s.seq = .idle)
    (hw : i.wellFormed s.cfg = true) (hop : operationOf i = some op) (hr : readsFirst i = true)
    (ha : firstRegister s.cfg i = some a) :
    ∃ addr x y, exec i s = .next ((s.accept op addr x y).advance 4) ∧ op.plan[0]? = some .readFirst ∧
      op.plan[0 + 1]? = some .readSecond ∧ (s.accept op addr x y).target op 0 = a ∧
      (s.accept op addr x y).target op (0 + 1) = a := by
  obtain ⟨addr, x, y, he, hfirst, -, -⟩ := exec_accepted hs hw hop
  obtain ⟨-, rest, hp⟩ | ⟨hr', -⟩ := plan_of_readsFirst_cases hop
  · have ht : (s.accept op addr x y).target op 0 = a := Option.some.inj (hfirst.symm.trans ha)
    exact ⟨addr, x, y, he, by rw [hp]; rfl, by rw [hp]; rfl, ht, (read_target hp _).trans ht⟩
  · cases hr.symm.trans hr'

/-- Settles O19: the run ends at its first exchange. -/
theorem failedFirstExchangeEndsTheOperation : Obligations.FailedFirstExchangeEndsTheOperation := by
  intro s i a f c e hs hw ha hread hwrite hx
  obtain ⟨op, hop⟩ := operation_of_firstRegister ha
  obtain ⟨addr, x, y, st, he, hp, rfl, -⟩ := exec_firstFrame hs hw hop ha hread hwrite
  rw [State.advance_fail (s := s.accept op addr x y) rfl hp hx] at he
  exact ⟨_, he, rfl, ended_failed _ c e (sameContext_accept s op addr x y) (l := []) (by simp)⟩

/-- Settles O18: the run ends with the second reply of its first read. -/
theorem flaggedReadEndsTheOperation : Obligations.FlaggedReadEndsTheOperation := by
  rintro s i a rx1 rx2 e hs hw hr ha ⟨e1, x1, e2, x2, rfl⟩ hf
  obtain ⟨op, hop⟩ := operation_of_firstRegister ha
  obtain ⟨addr, x, y, he, h1, h2, ht, ht'⟩ := exec_firstRead hs hw hop hr ha
  have htrace := (s.accept op addr x y).afterTwoKept_trace op 0 rx1 rx2 e1 e2
  rw [ht, ht'] at htrace
  rw [State.run_read_flagged (s := s.accept op addr x y) rfl h1 h2 (ht ▸ x1) (ht' ▸ x2) hf 2] at he
  exact ⟨_, he, ended_raise .frameError ⟨rfl, rfl, rfl, rfl⟩ rfl htrace⟩

/-- Settles O20: the run ends at the second exchange of its first read. -/
theorem failedSecondExchangeEndsTheRead : Obligations.FailedSecondExchangeEndsTheRead := by
  rintro s i a rx1 c e1 e2 hs hw hr ha ⟨e', x1, rfl⟩ x2
  obtain ⟨op, hop⟩ := operation_of_firstRegister ha
  obtain ⟨addr, x, y, he, h1, h2, ht, ht'⟩ := exec_firstRead hs hw hop hr ha
  rw [State.run_read_second_fails (s := s.accept op addr x y) rfl h1 h2 (ht ▸ x1) (ht' ▸ x2) 2, ht, ht'] at he
  exact ⟨_, he, rfl, ended_failed _ c e2 ⟨rfl, rfl, rfl, rfl⟩ (l := [.completed _ rx1]) rfl⟩

/-- Settles O43: the run stops at its first exchange, or at the second of its first read. -/
theorem operationsWaitForTheTransport : Obligations.OperationsWaitForTheTransport := by
  refine ⟨?_, ?_⟩
  · intro s i op a f e hs hw hop ha hread hwrite hx
    obtain ⟨addr, x, y, st, he, hp, rfl, hreq⟩ := exec_firstFrame hs hw hop ha hread hwrite
    rw [State.advance_stall (s := s.accept op addr x y) rfl hp hx] at he
    exact ⟨_, he, rfl, rfl, rfl, rfl, hreq⟩
  · rintro s i op a rx1 e1 e2 hs hw hop hr ha ⟨e', x1, rfl⟩ x2
    obtain ⟨addr, x, y, he, h1, h2, ht, ht'⟩ := exec_firstRead hs hw hop hr ha
    have hstall := State.advance_stall (n := 2) (st := .readSecond)
      (s := (s.accept op addr x y).received (packRead ((s.accept op addr x y).target op 0)) rx1 e') rfl h2
      (ht' ▸ x2 : _)
    rw [State.run_read_second (s := s.accept op addr x y) rfl h1 (ht ▸ x1), hstall, ht] at he
    exact ⟨_, he, rfl, rfl, rfl, rfl⟩

end Sys2Proof.Machine
end

section
/-! SUPPORT and PROOF for the read-modify-write (R181 to R184, R200 to R213), the engine sequences and the queries (R201 to
R203): whole operations from acceptance to their end. -/
namespace Sys2Proof.Machine
open Sys2Proof.Safety

/-! ### Read-modify-write -/

section
variable {s : State} {op : Operation} {addr : Addr} {x y : RegValue} {a : Addr} {new : RegValue} {rx1 rx2 : Frame}
  (hp : op.plan = [.readFirst, .readSecond, .write]) (ha : (s.accept op addr x y).target op 0 = a)
  (hf : rx2.getLsbD 15 = false)
  (hnew : new = modifyImage (rx2.extractLsb' 0 11) ((s.accept op addr x y).mutation op).1
    ((s.accept op addr x y).mutation op).2)
include hp ha hf hnew

/-- An accepted read-modify-write whose three exchanges complete (R181, R182). -/
theorem ended_modify {rx3 : Frame} {e : Env}
    (hc : Completes s.env (readFrames a ++ [packWrite a new]) [rx1, rx2, rx3] e) :
    ((s.accept op addr x y).advance 4).img = new ∧
      Ended s ((s.accept op addr x y).advance 4) (if s.cfg.writeFeCheck && rx3.getLsbD 15 then .frameError else .ok) 0#16
        e (completedTrace (readFrames a ++ [packWrite a new]) [rx1, rx2, rx3]) := by
  subst ha
  obtain ⟨e1, x1, e2, x2, e3, x3, rfl⟩ := hc
  obtain ⟨-, -, -, htrace⟩ := State.run_modify_read (s := s.accept op addr x y) rfl hp x1 x2 hf
  rw [State.run_modify (s := s.accept op addr x y) rfl hp x1 x2 hf hnew x3]
  refine ⟨?_, ended_write ⟨rfl, rfl, rfl, rfl⟩ rfl ?_⟩
  · simp only
    split <;> exact hnew.symm
  · rw [State.received_trace, htrace]
    simp [completedTrace, readFrames]

/-- An accepted read-modify-write whose write-back fails (R246). -/
theorem ended_modify_fails {c : TransportCause} {e1 e2 : Env} (hc : Completes s.env (readFrames a) [rx1, rx2] e1)
    (hx : Fails e1 (packWrite a new) c e2) :
    ((s.accept op addr x y).advance 4).res.cause = c ∧
      Ended s ((s.accept op addr x y).advance 4) .transport 0#16 e2
        (completedTrace (readFrames a) [rx1, rx2] ++ [.failed (packWrite a new) c]) := by
  subst ha
  obtain ⟨e', x1, e'', x2, rfl⟩ := hc
  obtain ⟨-, -, -, htrace⟩ := State.run_modify_read (s := s.accept op addr x y) rfl hp x1 x2 hf
  rw [State.run_modify_fails (s := s.accept op addr x y) rfl hp x1 x2 hf hnew hx]
  exact ⟨rfl, ended_failed _ c e2 ⟨rfl, rfl, rfl, rfl⟩ htrace⟩

end

theorem exec_rawModify {s : State} (hs : s.seq = .idle) (a : Addr) {mask bits : RegValue}
    (hbits : bits &&& ~~~mask = 0#11) :
    exec (.rawModify a mask bits) s = .next ((s.accept .rawModify a mask bits).advance 4) := by
  have hlegal : maskLegal mask bits = true := beq_iff_eq.2 hbits
  rw [← State.request_accepted hs, ← hlegal]
  rfl

/-- Settles O21: RAW_MODIFY is a read-modify-write of its own mask and bits. -/
theorem modifyWritesTheMaskedImage : Obligations.ModifyWritesTheMaskedImage :=
  fun _ a _ _ _ _ _ _ _ hs hbits hf hnew hc =>
    ⟨_, exec_rawModify hs a hbits, ended_modify (op := .rawModify) rfl rfl hf hnew hc⟩

/-- Settles O24: the write-back of RAW_MODIFY fails. -/
theorem failedWriteBackIsReported : Obligations.FailedWriteBackIsReported :=
  fun _ a _ _ _ _ _ _ _ _ hs hbits hf hnew hc hx =>
    ⟨_, exec_rawModify hs a hbits, ended_modify_fails (op := .rawModify) rfl rfl hf hnew hc hx⟩

/-! ### The engine sequences used alone -/

/-- Settles O22: one write, one read, one read-modify-write. -/
theorem engineSequencesUsedAlone : Obligations.EngineSequencesUsedAlone := by
  intro s a hs
  refine ⟨?_, ?_, ?_⟩
  · rintro v rx e ⟨e1, x, rfl⟩
    refine ⟨_, State.request_accepted hs .writeRegister a 0#11 v, ?_⟩
    rw [State.run_write (s := s.accept .writeRegister a 0#11 v) rfl rfl x]
    exact ended_write ⟨rfl, rfl, rfl, rfl⟩ rfl rfl
  · have he : exec (.readRegister a) s = .next ((s.accept .readRegister a 0#11 0#11).advance 4) :=
      State.request_accepted hs ..
    exact isRead_of_accepted he rfl rfl fun _ _ => rfl
  · intro mask bits new rx1 rx2 rx3 e hf hnew hc
    exact ⟨_, State.request_accepted hs .modifyRegister a mask bits,
      ended_modify (op := .modifyRegister) rfl rfl hf hnew hc⟩

/-! ### The queries -/

/-- A query with an operand field that is not zero is refused (R98, R244). -/
theorem noOperandsLegal_stray {addr : Addr} {a b : RegValue} (h : addr ≠ 0#4 ∨ a ≠ 0#11 ∨ b ≠ 0#11) :
    noOperandsLegal addr a b = false := by
  rw [Bool.eq_false_iff, noOperandsLegal]
  simp only [ne_eq, Bool.and_eq_true, beq_iff_eq]
  tauto

theorem query_refused {s : State} (hs : s.seq = .idle) (op : Operation) {addr : Addr} {a b : RegValue}
    (h : addr ≠ 0#4 ∨ a ≠ 0#11 ∨ b ≠ 0#11) :
    s.request (noOperandsLegal addr a b) op addr a b = .next (refusedState s) := by
  rw [noOperandsLegal_stray h, State.request_refused hs]

/-- Settles O25: one read, a refusal, and FAULT at the default layout. -/
theorem hasFaultReportsTheMasterFlag : Obligations.HasFaultReportsTheMasterFlag := by
  intro s hs
  refine ⟨isRead_of_accepted (State.request_accepted hs .hasFault 0 0 0) rfl rfl fun t ht => ?_,
    fun addr a b h => query_refused hs .hasFault h, fun hl v => ?_⟩
  · rw [← ht]; rfl
  · rw [hl, ← flagCode_extractFlag defaultLayout_wf v rfl, extractFlag_default v rfl]
    show (flagCode (v.getLsbD 10)).setWidth 16 = _
    cases v.getLsbD 10 <;> rfl

/-- Settles O26: one read, a refusal, and DEVICE_ID at the default layout. -/
theorem getDeviceIdReportsTheField : Obligations.GetDeviceIdReportsTheField := by
  intro s hs
  refine ⟨isRead_of_accepted (State.request_accepted hs .getDeviceId 0 0 0) rfl rfl fun t ht => ?_,
    fun addr a b h => query_refused hs .getDeviceId h, fun hl v => ?_⟩
  · rw [← ht]; rfl
  · rw [hl, extractField_deviceId_default]
    apply BitVec.eq_of_toNat_eq
    simp only [BitVec.toNat_setWidth]
    omega

/-- GET_FAULT_STATUS, its SR1 read kept, goes on with its SR2 read: the block between the two (R203). -/
theorem exec_getFaultStatus_second {s : State} {rx1 rx2 : Frame} {e : Env} (hs : s.seq = .idle)
    (hf : rx2.getLsbD 15 = false) (hc : Completes s.env (readFrames s.cfg.regAddr.sr1) [rx1, rx2] e) :
    ∃ u : State, exec (.getFaultStatus 0 0 0) s = .next (u.advance 2) ∧ u.cfg = s.cfg ∧ u.s1 = rx2.extractLsb' 0 11 ∧
      SameContext s u ∧ u.env = e ∧ u.seq = .busy .getFaultStatus 2 ∧
      (∀ k, 2 ≤ k → u.target .getFaultStatus k = s.cfg.regAddr.sr2) ∧
      u.trace = s.trace ++ completedTrace (readFrames s.cfg.regAddr.sr1) [rx1, rx2] := by
  obtain ⟨u, hu, hrest⟩ := State.run_firstStatus hc hf
  exact ⟨u, hu ▸ State.request_accepted hs .getFaultStatus 0 0 0, hrest⟩

/-- The trace of the SR2 read, after the trace l of the SR1 read. -/
theorem afterTwo_trace {u : State} {T l : List TraceEntry} {a : Addr} (htarget : ∀ k, 2 ≤ k → u.target .getFaultStatus k = a)
    (htrace : u.trace = T ++ l) (rx3 rx4 : Frame) (e1 e2 : Env) :
    (u.afterTwoKept .getFaultStatus 2 rx3 rx4 e1 e2).trace = T ++ (l ++ completedTrace (readFrames a) [rx3, rx4]) := by
  rw [State.afterTwoKept_trace, htarget 2 (by decide), htarget (2 + 1) (by decide), htrace, List.append_assoc]
  rfl

/-- Settles O27: the SR1 read is kept, then the SR2 read. -/
theorem getFaultStatusReadsBothRegisters : Obligations.GetFaultStatusReadsBothRegisters := by
  rintro s rx1 rx2 rx3 rx4 e hs ⟨e1, x1, e2, x2, e3, x3, e4, x4, rfl⟩ hf2 hf4
  obtain ⟨u, he, hcfg, hs1, hctx, henv, hseq, htarget, htrace⟩ :=
    exec_getFaultStatus_second hs hf2 ⟨e1, x1, e2, x2, rfl⟩
  have ht2 := htarget 2 (by decide)
  have ht3 := htarget (2 + 1) (by decide)
  have hctx' := sameContext_trans hctx (u.afterTwoKept_context .getFaultStatus 2 rx3 rx4 e3 e4)
  rw [State.run_read_kept hseq rfl rfl (henv ▸ ht2 ▸ x3) (ht3 ▸ x4) hf4 0] at he
  refine ⟨_, he, ?_⟩
  rw [← hcfg, ← hs1]
  exact ended_finish _ hctx' rfl (hcfg ▸ afterTwo_trace htarget htrace rx3 rx4 e3 e4)

/-- Settles O28: the SR1 read is kept, then the SR2 read ends at its first exchange, or at its second. -/
theorem secondStatusReadErrorEndsTheQuery : Obligations.SecondStatusReadErrorEndsTheQuery := by
  intro s rx1 rx2 hs hf2
  refine ⟨fun c e1 e2 hc hx => ?_, ?_⟩
  · obtain ⟨u, he, -, -, hctx, rfl, hseq, htarget, htrace⟩ := exec_getFaultStatus_second hs hf2 hc
    have ht2 := htarget 2 (by decide)
    rw [State.advance_fail (st := .readFirst) hseq rfl (ht2 ▸ hx) 1] at he
    refine ⟨_, he, rfl, ?_⟩
    rw [← ht2]
    exact ended_failed _ c e2 hctx htrace
  · rintro rx3 e3 ⟨e1, x1, e2, x2, e3', x3, rfl⟩
    obtain ⟨u, he, -, -, hctx, rfl, hseq, htarget, htrace⟩ :=
      exec_getFaultStatus_second hs hf2 ⟨e1, x1, e2, x2, rfl⟩
    have ht2 := htarget 2 (by decide)
    have ht3 := htarget (2 + 1) (by decide)
    refine ⟨?_, fun c e4 hx => ?_⟩
    · rintro rx4 e4 ⟨e4', x4, rfl⟩ hf4
      have htrace' := afterTwo_trace htarget htrace rx3 rx4 e3' e4'
      have hctx' := sameContext_trans hctx (u.afterTwoKept_context .getFaultStatus 2 rx3 rx4 e3' e4')
      rw [State.run_read_flagged hseq rfl rfl (ht2 ▸ x3) (ht3 ▸ x4) hf4 0] at he
      exact ⟨_, he, ended_raise .frameError ⟨hctx'.cfg, hctx'.ownsBus, hctx'.inputs, hctx'.out⟩ rfl htrace'⟩
    · have htrace' : (u.received (packRead s.cfg.regAddr.sr2) rx3 e3').trace = s.trace ++
          completedTrace (readFrames s.cfg.regAddr.sr1 ++ [packRead s.cfg.regAddr.sr2]) [rx1, rx2, rx3] := by
        rw [State.received_trace, htrace, List.append_assoc]
        rfl
      rw [State.run_read_second_fails hseq rfl rfl (ht2 ▸ x3) (ht3 ▸ hx) 0, ht2, ht3] at he
      exact ⟨_, he, rfl, ended_failed _ c e4 ⟨hctx.cfg, hctx.ownsBus, hctx.inputs, hctx.out⟩ htrace'⟩

/-! ### The setters -/

/-- An accepted setter, with the operation it is (R200). -/
theorem exec_setter_accepted {mk : Addr → RegValue → RegValue → Instr} {f : FieldName} (h : (mk, f) ∈ setters)
    {s : State} (hs : s.seq = .idle) {code : RegValue} (hcode : f.admits s.cfg code = true) :
    ∃ op : Operation, op.plan = [.readFirst, .readSecond, .write] ∧
      exec (mk 0 0 code) s = .next ((s.accept op 0 0 code).advance 4) ∧
      (∀ k, (s.accept op 0 0 code).target op k = s.cfg.regAddr.of f.reg) ∧
      ∀ v, modifyImage v ((s.accept op 0 0 code).mutation op).1 ((s.accept op 0 0 code).mutation op).2 =
        insertField s.cfg.layout v f code := by
  obtain ⟨op, hfield, hp, he⟩ := exec_setter h
  refine ⟨op, hp, ?_, State.target_of_field hfield _, fun v => ?_⟩
  · rw [he, setterLegal_zero, hcode, State.request_accepted hs]
  · rw [State.mutation_of_field hfield]
    rfl

/-- Settles O29: a setter is the read-modify-write that inserts its code. -/
theorem settersInsertTheirCode : Obligations.SettersInsertTheirCode := by
  -- the obligation's list is that of `setters`, with each field's register
  show ∀ p ∈ setters.map fun q => (q.1, q.2, q.2.reg), _
  rintro _ hmem s code new rx1 rx2 rx3 e hs hcode hf hnew hc
  obtain ⟨q, hq, rfl⟩ := List.mem_map.1 hmem
  obtain ⟨op, hp, he, htarget, himage⟩ := exec_setter_accepted hq hs hcode
  exact ⟨_, he, (ended_modify hp (htarget 0) hf (hnew.trans (himage _).symm) hc).2⟩

/-- What a setter is not legal on (R98, R200). -/
theorem setterLegal_bad {c : Config} {f : FieldName} {addr : Addr} {a code : RegValue}
    (h : addr ≠ 0#4 ∨ a ≠ 0#11 ∨ 2 ^ (c.layout.slot f).width ≤ code.toNat ∨ (f, code) ∈ c.reservedCodes) :
    setterLegal c f addr a code = false := by
  rw [Bool.eq_false_iff, setterLegal, Config.isReserved]
  simp only [ne_eq, Bool.and_eq_true, beq_iff_eq, decide_eq_true_eq, Bool.not_eq_true', List.contains_eq_mem,
    decide_eq_false_iff_not, ← Nat.not_le]
  tauto

/-- Settles O30: none of the four is legal, so the request is refused. -/
theorem settersRefuseBadOperands : Obligations.SettersRefuseBadOperands := by
  intro p hp s addr a code hs h
  obtain ⟨op, -, -, he⟩ := exec_setter hp
  rw [he, setterLegal_bad h, State.request_refused hs]

end Sys2Proof.Machine
end

section
/-! SUPPORT and PROOF for the reference device (R80 to R84): it answers every exchange, a read frame leaves its registers,
a write frame sets the addressed one; and what whole operations make of that. -/
namespace Sys2Proof.Machine
open Sys2Proof.Safety

/-! ### One exchange -/

/-- The registers after a write frame (R83). -/
def writtenRegs (regs : Vector RegValue 16) (a : Addr) (v : RegValue) : Vector RegValue 16 :=
  if a.toNat < 2 then regs else regs.set a.toNat v a.isLt

/-- The reference environment after a read frame (R82). -/
def Env.latched (e : Env) (a : Addr) : Env :=
  { e with dev := { e.dev with pending := (e.dev.regs.get a.toFin).setWidth 16 } }

/-- The reference environment after a write frame (R83). -/
def Env.written (e : Env) (a : Addr) (v : RegValue) : Env :=
  { e with dev := { e.dev with regs := writtenRegs e.dev.regs a v, pending := e.dev.wReply } }

theorem status_address_iff (a : Addr) : (a = 0#4 ∨ a = 1#4) ↔ a.toNat < 2 := by
  revert a; decide

section
variable {e : Env} (hk : e.kind = .reference) (hs : e.script = [])
include hk hs

/-- A read frame on the reference device (R82). -/
theorem Env.exchange_read (a : Addr) :
    e.exchange (toBytes (packRead a)) = (.reply (toBytes e.dev.pending), e.latched a) := by
  rw [Env.exchange_reference hk hs]
  simp only [deviceExchange, fromBytes_toBytes, decodeCommand_packRead]
  rfl

/-- A write frame on the reference device (R83). -/
theorem Env.exchange_write (a : Addr) (v : RegValue) :
    e.exchange (toBytes (packWrite a v)) = (.reply (toBytes e.dev.pending), e.written a v) := by
  rw [Env.exchange_reference hk hs]
  simp only [deviceExchange, fromBytes_toBytes, decodeCommand_packWrite, status_address_iff]
  rfl

/-- A logical read on the reference device: its second reply is the register (R82, R143). -/
theorem completes_read_reference (a : Addr) :
    Completes e (readFrames a) [e.dev.pending, (e.dev.regs.get a.toFin).setWidth 16] (e.latched a) :=
  ⟨_, Env.exchange_read hk hs a, _, Env.exchange_read (e := e.latched a) hk hs a, rfl⟩

/-- A read-modify-write on the reference device: the write-back is answered with the register too (R82, R83). -/
theorem completes_modify_reference (a : Addr) (new : RegValue) :
    Completes e (readFrames a ++ [packWrite a new])
      [e.dev.pending, (e.dev.regs.get a.toFin).setWidth 16, (e.dev.regs.get a.toFin).setWidth 16]
      ((e.latched a).written a new) :=
  ⟨_, Env.exchange_read hk hs a, _, Env.exchange_read (e := e.latched a) hk hs a, _,
    Env.exchange_write (e := e.latched a) hk hs a new, rfl⟩

end

/-- Settles O35: a read frame, and a write frame. -/
theorem referenceDeviceIsOneFrameLate : Obligations.ReferenceDeviceIsOneFrameLate := fun _ a v hk hs =>
  ⟨Env.exchange_read hk hs a, Env.exchange_write hk hs a v⟩

/-! ### Registers -/

theorem get_set_same (regs : Vector RegValue 16) (a : Addr) (v : RegValue) :
    (regs.set a.toNat v a.isLt).get a.toFin = v := by
  rw [Vector.get_eq_getElem]
  exact Vector.getElem_set_self _

theorem get_set_other (regs : Vector RegValue 16) {a x : Addr} (h : x ≠ a) (v : RegValue) :
    (regs.set a.toNat v a.isLt).get x.toFin = regs.get x.toFin := by
  rw [Vector.get_eq_getElem, Vector.get_eq_getElem]
  exact Vector.getElem_set_ne _ _ fun hn => h (BitVec.eq_of_toNat_eq hn.symm)

/-- Only the addressed register changes, and a status register does not (R83). -/
theorem writtenRegs_frame (regs : Vector RegValue 16) (a : Addr) (v : RegValue) :
    (∀ x : Addr, x ≠ a → (writtenRegs regs a v).get x.toFin = regs.get x.toFin) ∧
      (a = 0#4 ∨ a = 1#4 → writtenRegs regs a v = regs) := by
  rw [status_address_iff, writtenRegs]
  split
  · exact ⟨fun _ _ => rfl, fun _ => rfl⟩
  · next h => exact ⟨fun _ hx => get_set_other regs hx v, fun h' => absurd h' h⟩

/-- A register value, zero-extended, reports no frame error and gives its bits back (R82, R93). -/
theorem zext_reply (v : RegValue) :
    (v.setWidth 16).getLsbD 15 = false ∧ (v.setWidth 16).extractLsb' 0 11 = v := by
  refine ⟨?_, ?_⟩
  · rw [BitVec.getLsbD_setWidth, BitVec.getLsbD_of_ge v 15 (by decide), Bool.and_false]
  · apply BitVec.eq_of_toNat_eq
    rw [BitVec.extractLsb'_toNat, BitVec.toNat_setWidth, Nat.shiftRight_zero]
    omega

/-! ### A whole run on the reference device -/

/-- Every exchange is answered; a read's leaves the registers, a write's sets the target. -/
theorem State.exchange_onReference {s : State} (h : OnReference s) (op : Operation) (k : Nat) (st : Stage) :
    ∃ rx e, s.env.exchange (toBytes (s.frameFor op k st)) = (.reply (toBytes rx), e) ∧ e.kind = .reference ∧
      e.script = [] ∧ (e.dev.regs = s.env.dev.regs ∨
        st = .write ∧ ∃ v, e.dev.regs = writtenRegs s.env.dev.regs (s.target op k) v) := by
  obtain ⟨hk, hs⟩ := h
  cases st with
  | readFirst => exact ⟨_, _, Env.exchange_read hk hs _, hk, hs, .inl rfl⟩
  | readSecond => exact ⟨_, _, Env.exchange_read hk hs _, hk, hs, .inl rfl⟩
  | write => exact ⟨_, _, Env.exchange_write hk hs _ _, hk, hs, .inr ⟨rfl, _, rfl⟩⟩

/-- What every write of an operation to its register keeps of the device's registers, the whole run keeps. -/
theorem State.advance_registers {op : Operation} {a : Addr} {Q : Vector RegValue 16 → Prop}
    (hQ : Stage.write ∈ op.plan → ∀ regs v, Q regs → Q (writtenRegs regs a v)) (n : Nat) {s : State} {k : Nat}
    (hs : s.seq = .busy op k) (href : OnReference s) (ha : Stage.write ∈ op.plan → ∀ k, s.target op k = a)
    (h : Q s.env.dev.regs) : Q (s.advance n).env.dev.regs := by
  induction n generalizing s k with
  | zero => exact h
  | succ n ih =>
    cases hp : op.plan[k]? with
    | none => rwa [State.advance_pastPlan hs hp]
    | some st =>
      obtain ⟨rx, e, hx, hk, hscript, hregs⟩ := State.exchange_onReference href op k st
      have hq : Q e.dev.regs := by
        obtain hregs | ⟨rfl, v, hregs⟩ := hregs
        · rwa [hregs]
        · have hmem := List.mem_of_getElem? hp
          rw [hregs, ha hmem]
          exact hQ hmem _ v h
      rw [State.advance_reply hs hp hx]
      have hseq : (s.received (s.frameFor op k st) rx e).seq = .busy op (k + 1) := by simp [hs]
      obtain ⟨-, v, w, h'⟩ | ⟨-, v, d, h'⟩ | ⟨-, h'⟩ :=
        State.onReply_plan (s.received (s.frameFor op k st) rx e) op k rx hp <;> rw [h']
      · exact ih (s := { s.received (s.frameFor op k st) rx e with img := v, s1 := w }) hseq ⟨hk, hscript⟩ ha hq
      · rwa [State.advance_idle rfl]
      · rwa [State.advance_idle rfl]

/-- A request presented on the reference device, run or refused. -/
theorem State.request_registers {s t : State} {legal : Bool} {op : Operation} {addr : Addr} {x y : RegValue}
    {Q : Vector RegValue 16 → Prop} (hs : s.seq = .idle) (href : OnReference s)
    (hQ : Stage.write ∈ op.plan → ∀ regs v, Q regs → Q (writtenRegs regs addr v))
    (ha : Stage.write ∈ op.plan → ∀ k, (s.accept op addr x y).target op k = addr)
    (h : Q s.env.dev.regs) (ht : s.request legal op addr x y = .next t) : Q t.env.dev.regs := by
  cases legal with
  | true =>
    cases ht.symm.trans (State.request_accepted hs op addr x y)
    exact State.advance_registers hQ 4 (State.accept_seq s op addr x y) href ha h
  | false =>
    cases ht.symm.trans (State.request_refused hs op addr x y)
    exact h

/-- Settles O33: all four operations write to their own address. -/
theorem rawWritesTouchOneRegister : Obligations.RawWritesTouchOneRegister := by
  intro s t i addr hi hs href ht
  obtain ⟨legal, op, x, y, he, htarget⟩ : ∃ legal op x y, exec i s = s.request legal op addr x y ∧
      ∀ u : State, ∀ k, u.target op k = u.req.addr := by
    obtain ⟨a, b, hi⟩ := hi
    simp only [List.mem_cons, List.not_mem_nil, or_false] at hi
    obtain rfl | rfl | rfl | rfl := hi <;> exact ⟨_, _, _, _, rfl, fun _ _ => rfl⟩
  refine State.request_registers (Q := fun regs =>
      (∀ x : Addr, x ≠ addr → regs.get x.toFin = s.env.dev.regs.get x.toFin) ∧
      (addr = 0#4 ∨ addr = 1#4 → regs = s.env.dev.regs)) hs href (fun _ regs v hq => ?_) (fun _ k => htarget _ k)
    ⟨fun _ _ => rfl, fun _ => rfl⟩ (he.symm.trans ht)
  obtain ⟨hother, hstatus⟩ := writtenRegs_frame regs addr v
  exact ⟨fun x hx => (hother x hx).trans (hq.1 x hx), fun h => (hstatus h).trans (hq.2 h)⟩

/-- Settles O32: no plan of the reading operations has a write. -/
theorem queriesOnlyRead : Obligations.QueriesOnlyRead := by
  intro s t i hi hs ht
  obtain ⟨legal, op, addr, x, y, he, hp⟩ : ∃ legal op addr x y, exec i s = s.request legal op addr x y ∧
      Stage.write ∉ op.plan := by
    obtain ⟨addr, a, b, hi⟩ := hi
    simp only [List.mem_cons, List.not_mem_nil, or_false] at hi
    obtain rfl | rfl | rfl | rfl | rfl := hi <;> exact ⟨_, _, _, _, _, rfl, by decide⟩
  have ht := he.symm.trans ht
  refine ⟨?_, fun href => State.request_registers (Q := (· = s.env.dev.regs)) hs href (absurd · hp) (absurd · hp) rfl ht⟩
  cases legal with
  | true =>
    cases ht.symm.trans (State.request_accepted hs op addr x y)
    obtain ⟨l, htrace, -, -, -, hread, -⟩ :=
      State.advance_run 4 (State.accept_seq s op addr x y) op.plan_length.1
    exact ⟨l, htrace, hread hp⟩
  | false =>
    cases ht.symm.trans (State.request_refused hs op addr x y)
    exact ⟨[], by simp [refusedState], nofun⟩

/-- Settles O34: the write leaves the value in the register, and the read's second reply is the register. -/
theorem readAfterWriteGivesTheValue : Obligations.ReadAfterWriteGivesTheValue := by
  rintro s addr v hs ⟨hk, hscript⟩ hcheck haddr
  obtain ⟨t, ht, hend⟩ := (writeSendsOneFrame s addr v hs).1 _ _ ⟨_, Env.exchange_write hk hscript addr v, rfl⟩
  have hregs : t.env.dev.regs.get addr.toFin = v := by
    rw [hend.env]
    show (writtenRegs s.env.dev.regs addr v).get addr.toFin = v
    rw [writtenRegs, if_neg (by omega), get_set_same]
  have hread := completes_read_reference (e := t.env) (by rw [hend.env]; exact hk) (by rw [hend.env]; exact hscript) addr
  obtain ⟨u, hu, -, hend'⟩ := (readReturnsTheSecondReply t addr hend.seq).1 _ _ _ hread
  obtain ⟨hflag, hdata⟩ := zext_reply v
  rw [hregs, hflag, hdata] at hend'
  exact ⟨t, u, ht, hu, hend'.valid, hend'.status, hend'.data⟩

/-- Settles O31: a setter's read gives its register, and its write-back is answered with that register again. -/
theorem settersChangeOneRegister : Obligations.SettersChangeOneRegister := by
  rintro ⟨mk, f⟩ hmem s code hs ⟨hk, hscript⟩ hcode haddr
  obtain ⟨op, hp, he, htarget, himage⟩ := exec_setter_accepted hmem hs hcode
  obtain ⟨hflag, hdata⟩ := zext_reply (s.env.dev.regs.get (s.cfg.regAddr.of f.reg).toFin)
  have hc := completes_modify_reference hk hscript (s.cfg.regAddr.of f.reg)
    (insertField s.cfg.layout (s.env.dev.regs.get (s.cfg.regAddr.of f.reg).toFin) f code)
  obtain ⟨-, hend⟩ := ended_modify hp (htarget 0) hflag (by rw [hdata, himage]) hc
  rw [hflag, Bool.and_false] at hend
  refine ⟨_, he, hend.valid, hend.status, ?_, ?_⟩
  · rw [OnReference, hend.env]
    exact ⟨hk, hscript⟩
  · rw [hend.env]
    exact if_neg (Nat.not_lt.2 haddr)

end Sys2Proof.Machine
end
